-- ==== Sys2Proof/Word.lean ====
section
/-! DEFINITION. The word types of the block: the widths of spec/00_scope.md rule R9 (`u32`, `u64`), the 128-bit command
and response words of spec/30_encoding.md rules R90 and R100, and the byte and the element (a string of bytes the block
never interprets, spec/10_state.md rule R26). Their `+` and `-` are the modulo arithmetic of rule R10. -/

namespace Sys2Proof

/-- One byte. -/
abbrev Byte := BitVec 8

/-- `u32` of rule R9: positions, counts, thread ids; `+` and `-` are `+32` and `-32` of rule R10. -/
abbrev U32 := BitVec 32

/-- `u64` of rule R9: control words, tokens, bitmap words. -/
abbrev U64 := BitVec 64

/-- A command or response word (rules R90, R100). -/
abbrev U128 := BitVec 128

/-- The bytes of one ring element or one defer-queue entry, byte 0 first (rules R26, R62). -/
abbrev Element := List Byte

end Sys2Proof
end

