-- ==== Sys2Proof/Config.lean ====
section
/-! DEFINITION. What is fixed from outside the block: the construction parameters (spec/00_scope.md rule R6), the
messages the host can send (spec/10_state.md rule R38), the events that may happen next (a grant of the arbiter,
spec/20_memory.md rule R67, or an action of the host, spec/60_exceptions.md rule R262, or reset, spec/70 rule R280),
and the one free value of the model: which event happens next where the state does not say. -/

namespace Sys2Proof

/-- The synchronisation discipline tag of a side (spec/10_state.md rule R21, decision D7). -/
inductive Sync where
  | st   -- single agent, tag 0
  | mt   -- multi-agent spin-on-tail ("plain"), tag 1
  | hts  -- head-tail-synchronized, tag 2
  | rts  -- relaxed-tail-synchronized, tag 3
  deriving DecidableEq, Repr

/-- `mt_safety` of the defer queue (rule R6): single or multiple producers. -/
inductive DqMt where
  | sp
  | mp
  deriving DecidableEq, Repr

/-- The construction parameters of rule R6, latched at reset. `dqPsync = .rts` and `htdCfg0 = none` are the spec's
defaults. -/
structure Params where
  nports       : Nat
  c0           : U32
  e0           : U32
  psync0       : Sync
  csync0       : Sync
  htdCfg0      : Option U32
  maxThreads   : U32
  dqSize       : U32
  dqEsize      : U32
  triggerLimit : U32
  maxReclaim   : U32
  dqCtx        : U64
  dqMt         : DqMt
  dqPsync      : Sync
  deriving DecidableEq, Repr

/-- The payload of a command message (rules R38, R93): a string of `size` bytes, of which `bytes` are the first ones and
the rest are zero (log entry 9: a string of zeros needs no list). -/
structure Payload where
  size  : Nat
  bytes : List Byte
  deriving DecidableEq, Repr

/-- A message on a command channel `CMDCH[p]` (rule R38): the command word and its payload, delivered whole. -/
structure Message where
  word    : U128
  payload : Payload
  deriving DecidableEq, Repr

/-- What can happen next: the arbiter lets a port take its next step (rule R67), the host acts (rule R262), or the block
is reset with a configuration (rule R280). -/
inductive Event where
  | grant (p : Nat)
  | send (p : Nat) (m : Message)
  | takeRsp (p : Nat)
  | takeFree
  | reset (cfg : Params)
  deriving DecidableEq, Repr

/-- FREE VALUE (log entry 2): the event that happens when the state's own list of coming events is empty, for each count
of such events so far; `none` means that nothing happens. Spec/20_memory.md rule R67: which ready port is granted next
is not specified. -/
opaque Config.freeEvent : Nat → Option Event

end Sys2Proof
end

