-- ==== Sys2Proof/Syntax.lean ====
section
/-! DEFINITION. The command set: one constructor per row of spec/opcode_table.json (spec/30_encoding.md rule R94), the
units they belong to, and the status codes of a response (rule R101). A command's payload travels beside its word in the
message, so it is no field of the constructor. -/

namespace Sys2Proof

/-- The 18 commands of rule R94, with the operands of rule R91 as the fields of the command word. -/
inductive Instr where
  | enqBulk (n : U32)
  | enqBurst (n : U32)
  | deqBulk (n : U32)
  | deqBurst (n : U32)
  | ringCount
  | ringFree
  | thrReg (tid : U32)
  | thrUnreg (tid : U32)
  | quiescent (tid : U32)
  | start
  | check (t : U64) (wait : Bool)
  | sync (tid : U32)
  | rdLock (tid : U32)
  | rdUnlock (tid : U32)
  | dqEnq
  | dqReclaim (n : U32)
  | dqDelete
  | csrRd (reg : U32) (idx : U64)
  deriving DecidableEq, Repr

/-- The units of `OPC[7:4]` (rule R94). -/
inductive CmdUnit where
  | ring
  | qsbr
  | deferQueue
  | system
  deriving DecidableEq, Repr

/-- The status codes of rule R101. -/
inductive Status where
  | ok
  | eInval
  | eAlready
  | eLocked
  | eNotreg
  | ePending
  | eNodq
  | eIllcmd
  | eCfg
  | eLockrange
  | eFault
  deriving DecidableEq, Repr

/-- Pseudo-command `CHECK_NW T` (rule R105). -/
def Instr.checkNw (t : U64) : Instr := .check t false

/-- Pseudo-command `CHECK_W T` (rule R105). -/
def Instr.checkW (t : U64) : Instr := .check t true

/-- Pseudo-command `SYNC_NR` (rule R105): the caller is no reader. -/
def Instr.syncNr : Instr := .sync 0xFFFFFFFF#32

end Sys2Proof
end

