-- ==== Sys2Proof/WellFormed.lean ====
section
/-! DEFINITION. When a command with its payload is well formed (spec/30_encoding.md rule R93): the payload has exactly
the size its command asks for. The operand fields need no check: every value of a field of the command word is legal
syntax (rule R91). -/

namespace Sys2Proof

/-- The number of payload bytes a command carries (rule R93): `n` elements of `E[0]` bytes, one element of `DQ_ESIZE`
bytes, or none. -/
def Instr.payloadSize (cfg : Params) : Instr → Nat
  | .enqBulk n => n.toNat * cfg.e0.toNat
  | .enqBurst n => n.toNat * cfg.e0.toNat
  | .dqEnq => cfg.dqEsize.toNat
  | .deqBulk _ => 0
  | .deqBurst _ => 0
  | .ringCount => 0
  | .ringFree => 0
  | .thrReg _ => 0
  | .thrUnreg _ => 0
  | .quiescent _ => 0
  | .start => 0
  | .check _ _ => 0
  | .sync _ => 0
  | .rdLock _ => 0
  | .rdUnlock _ => 0
  | .dqReclaim _ => 0
  | .dqDelete => 0
  | .csrRd _ _ => 0

/-- A command with its payload is well formed (rule R93): neither a missing byte nor one too many. -/
def Instr.wf (cfg : Params) (i : Instr) (pl : Payload) : Bool :=
  decide (pl.size = i.payloadSize cfg)

end Sys2Proof
end

