-- ==== Sys2Proof/Decode.lean ====
section
/-! DEFINITION. The command word, read and written (spec/30_encoding.md rules R90, R91, R94, R95, R96), the payload's size
(rule R93), the response word and its status codes (rules R100, R101), and bytes in little-endian order
(spec/20_memory.md rule R62). -/

namespace Sys2Proof

/-! ### Little-endian bytes (rule R62) -/

/-- The `n` low bytes of `v`, least significant first; `leBytes 8` is `LE64` of spec/00_scope.md rule R11. -/
def leBytes : Nat → Nat → List Byte
  | 0, _ => []
  | n + 1, v => BitVec.ofNat 8 v :: leBytes n (v / 256)

/-- The number whose little-endian bytes are given; the inverse of `leBytes`. -/
def leValue : List Byte → Nat
  | [] => 0
  | b :: bs => b.toNat + 256 * leValue bs

/-! ### The command word (rule R90) -/

/-- `OPC`, bits 7:0. -/
def fieldOpc (w : U128) : BitVec 8 := w.extractLsb' 0 8

/-- `W`, bit 8. -/
def fieldWait (w : U128) : Bool := w.getLsbD 8

/-- The reserved bits 15:9 and 31:16, which must be 0. -/
def fieldReserved (w : U128) : BitVec 23 := w.extractLsb' 9 23

/-- `ARG32`, bits 63:32. -/
def fieldArg32 (w : U128) : U32 := w.extractLsb' 32 32

/-- `ARG64`, bits 127:64. -/
def fieldArg64 (w : U128) : U64 := w.extractLsb' 64 64

/-- Why a command word or its payload is illegal (rule R95). -/
inductive DecodeError where
  | opcode       -- `OPC` is none of the 18 values
  | reservedBits -- a reserved bit is 1
  | waitFlag     -- `W = 1` in a command other than `CHECK`
  | arg32        -- `ARG32` is not 0 in a command that takes none
  | arg64        -- `ARG64` is not 0 in a command that takes none
  | payloadSize  -- the payload is not the one rule R93 asks for
  deriving DecidableEq, Repr

/-- A command that takes no operand. -/
def decodePlain (w : U128) (i : Instr) : Except DecodeError Instr :=
  if fieldWait w then .error .waitFlag
  else if fieldArg32 w ≠ 0#32 then .error .arg32
  else if fieldArg64 w ≠ 0#64 then .error .arg64
  else .ok i

/-- A command whose one operand is `ARG32`. -/
def decodeArg32 (w : U128) (i : U32 → Instr) : Except DecodeError Instr :=
  if fieldWait w then .error .waitFlag
  else if fieldArg64 w ≠ 0#64 then .error .arg64
  else .ok (i (fieldArg32 w))

/-- `CHECK`, the one command that uses `W`; its operand is `ARG64`. -/
def decodeCheck (w : U128) : Except DecodeError Instr :=
  if fieldArg32 w ≠ 0#32 then .error .arg32
  else .ok (.check (fieldArg64 w) (fieldWait w))

/-- `CSR_RD`, which uses both operand fields. -/
def decodeCsrRd (w : U128) : Except DecodeError Instr :=
  if fieldWait w then .error .waitFlag
  else .ok (.csrRd (fieldArg32 w) (fieldArg64 w))

/-- The opcode map of rule R94. -/
def decodeOpcode (w : U128) : Except DecodeError Instr :=
  match fieldOpc w with
  | 0x01#8 => decodeArg32 w .enqBulk
  | 0x02#8 => decodeArg32 w .enqBurst
  | 0x03#8 => decodeArg32 w .deqBulk
  | 0x04#8 => decodeArg32 w .deqBurst
  | 0x05#8 => decodePlain w .ringCount
  | 0x06#8 => decodePlain w .ringFree
  | 0x10#8 => decodeArg32 w .thrReg
  | 0x11#8 => decodeArg32 w .thrUnreg
  | 0x12#8 => decodeArg32 w .quiescent
  | 0x13#8 => decodePlain w .start
  | 0x14#8 => decodeCheck w
  | 0x15#8 => decodeArg32 w .sync
  | 0x16#8 => decodeArg32 w .rdLock
  | 0x17#8 => decodeArg32 w .rdUnlock
  | 0x20#8 => decodePlain w .dqEnq
  | 0x21#8 => decodeArg32 w .dqReclaim
  | 0x22#8 => decodePlain w .dqDelete
  | 0x30#8 => decodeCsrRd w
  | _ => .error .opcode

/-- Decode a command word (rules R94, R95): total on any 128 bits and independent of the state (rule R96). -/
def decodeWord (w : U128) : Except DecodeError Instr :=
  if fieldReserved w ≠ 0#23 then .error .reservedBits else decodeOpcode w

/-- The command word stored as bytes, byte 0 holding bits 7:0 (rules R62, R90); bytes beyond the 16th are payload. -/
def decodeBytes (bs : List Byte) : Except DecodeError Instr :=
  decodeWord (BitVec.ofNat 128 (leValue (bs.take 16)))

/-- The payload size that `OPC` and `ARG32` ask for (rules R93, R96). -/
def payloadBytesOf (cfg : Params) (w : U128) : Nat :=
  match fieldOpc w with
  | 0x01#8 => (fieldArg32 w).toNat * cfg.e0.toNat
  | 0x02#8 => (fieldArg32 w).toNat * cfg.e0.toNat
  | 0x20#8 => cfg.dqEsize.toNat
  | _ => 0

/-- `decode(CW, payload)` of rules R92 and R95: the word decodes and the payload has the size rule R93 gives. -/
def decodeMessage (cfg : Params) (m : Message) : Except DecodeError Instr :=
  match decodeWord m.word with
  | .error e => .error e
  | .ok i => if m.payload.size = payloadBytesOf cfg m.word then .ok i else .error .payloadSize

/-- The host's entry point: the command whose `nbits` low bits are those of `w` and whose other bits are 0, laid out as
16 bytes and decoded. -/
def decodeTableWord (nbits w : Nat) : Option Instr :=
  match decodeBytes (leBytes 16 (w % 2 ^ nbits)) with
  | .ok i => some i
  | .error _ => none

/-! ### Payload bytes -/

/-- Byte `k` of a payload. -/
def Payload.byte (pl : Payload) (k : Nat) : Byte := pl.bytes.getD k 0#8

/-- Element `j` of a payload of elements of `e` bytes (rule R93: element 0 first). -/
def Payload.elem (pl : Payload) (e j : Nat) : Element :=
  (List.range e).map fun k => pl.byte (j * e + k)

/-- The payload that holds exactly the given bytes. -/
def Payload.ofBytes (bs : List Byte) : Payload := { size := bs.length, bytes := bs }

/-! ### The encoder -/

/-- The opcode of a command (rule R94). -/
def Instr.opcode : Instr → BitVec 8
  | .enqBulk _ => 0x01#8
  | .enqBurst _ => 0x02#8
  | .deqBulk _ => 0x03#8
  | .deqBurst _ => 0x04#8
  | .ringCount => 0x05#8
  | .ringFree => 0x06#8
  | .thrReg _ => 0x10#8
  | .thrUnreg _ => 0x11#8
  | .quiescent _ => 0x12#8
  | .start => 0x13#8
  | .check _ _ => 0x14#8
  | .sync _ => 0x15#8
  | .rdLock _ => 0x16#8
  | .rdUnlock _ => 0x17#8
  | .dqEnq => 0x20#8
  | .dqReclaim _ => 0x21#8
  | .dqDelete => 0x22#8
  | .csrRd _ _ => 0x30#8

/-- Assemble the fields of rule R90, most significant first. -/
def assemble (opc : BitVec 8) (wait : Bool) (arg32 : U32) (arg64 : U64) : U128 :=
  arg64 ++ (arg32 ++ (0#23 ++ (BitVec.ofBool wait ++ opc)))

/-- The command word of a command (rules R90, R91, R94). -/
def encode (i : Instr) : U128 :=
  match i with
  | .enqBulk n => assemble i.opcode false n 0#64
  | .enqBurst n => assemble i.opcode false n 0#64
  | .deqBulk n => assemble i.opcode false n 0#64
  | .deqBurst n => assemble i.opcode false n 0#64
  | .ringCount => assemble i.opcode false 0#32 0#64
  | .ringFree => assemble i.opcode false 0#32 0#64
  | .thrReg tid => assemble i.opcode false tid 0#64
  | .thrUnreg tid => assemble i.opcode false tid 0#64
  | .quiescent tid => assemble i.opcode false tid 0#64
  | .start => assemble i.opcode false 0#32 0#64
  | .check t wait => assemble i.opcode wait 0#32 t
  | .sync tid => assemble i.opcode false tid 0#64
  | .rdLock tid => assemble i.opcode false tid 0#64
  | .rdUnlock tid => assemble i.opcode false tid 0#64
  | .dqEnq => assemble i.opcode false 0#32 0#64
  | .dqReclaim n => assemble i.opcode false n 0#64
  | .dqDelete => assemble i.opcode false 0#32 0#64
  | .csrRd reg idx => assemble i.opcode false reg idx

/-! ### The response word (rules R100, R101) -/

/-- The status code of rule R101. -/
def Status.code : Status → BitVec 8
  | .ok => 0x00#8
  | .eInval => 0x01#8
  | .eAlready => 0x02#8
  | .eLocked => 0x03#8
  | .eNotreg => 0x04#8
  | .ePending => 0x05#8
  | .eNodq => 0x06#8
  | .eIllcmd => 0x07#8
  | .eCfg => 0x08#8
  | .eLockrange => 0x09#8
  | .eFault => 0x0A#8

/-- `RW = val ++ cnt ++ zext_24(0) ++ st` (rule R100). -/
def responseWord (st : Status) (cnt : U32) (val : U64) : U128 :=
  val ++ (cnt ++ (0#24 ++ st.code))

end Sys2Proof
end

