-- ==== Sys2Proof/Machine/Params.lean ====
section
/-! DEFINITION. The derived configuration (spec/00_scope.md rule R7), the validity of the three units (rule R8), and the
reset value of `STATUS` and `FAULT` that follows from it (spec/10_state.md rule R41). -/

namespace Sys2Proof.Machine

/-- The two rings: ring 0, the FIFO proper, and ring 1, inside the defer queue (spec/10_state.md rule R20). -/
inductive RingId where
  | fifo
  | defer
  deriving DecidableEq, Repr

/-- The two sides of a ring (spec/00_scope.md rule R13). -/
inductive Side where
  | prod
  | cons
  deriving DecidableEq, Repr

/-- `opp(s)` of rule R13. -/
def Side.opp : Side → Side
  | .prod => .cons
  | .cons => .prod

/-- `C[r]` of rule R7. -/
def cap (cfg : Params) : RingId → U32
  | .fifo => cfg.c0
  | .defer => cfg.dqSize

/-- `E[r]` of rule R7; a number, because `8 + DQ_ESIZE` may need 33 bits. -/
def esize (cfg : Params) : RingId → Nat
  | .fifo => cfg.e0.toNat
  | .defer => 8 + cfg.dqEsize.toNat

/-- `SYNC[r][s]` of rule R7. -/
def syncOf (cfg : Params) : RingId → Side → Sync
  | .fifo, .prod => cfg.psync0
  | .fifo, .cons => cfg.csync0
  | .defer, .prod =>
    match cfg.dqMt with
    | .sp => .st
    | .mp => cfg.dqPsync
  | .defer, .cons => .hts

/-- `HTD_MAX[r]` of rule R7. -/
def htdMax (cfg : Params) : RingId → U32
  | .fifo =>
    match cfg.htdCfg0 with
    | some d => d
    | none => cfg.c0 / 8#32
  | .defer => cfg.dqSize / 8#32

/-- `MASK[r]` of rule R7. -/
def maskOf (cfg : Params) (r : RingId) : U32 := cap cfg r - 1#32

/-- `NWORDS` of rule R7. -/
def nwords (cfg : Params) : Nat := (cfg.maxThreads.toNat + 63) / 64

/-- The 2-bit tag of a discipline (spec/10_state.md rule R21). -/
def syncTag : Sync → BitVec 2
  | .st => 0#2
  | .mt => 1#2
  | .hts => 2#2
  | .rts => 3#2

/-- `ispow2` of rule R8. -/
def ispow2 (x : U32) : Bool := decide (0#32 < x) && decide (x &&& (x - 1#32) = 0#32)

/-- `RING_VALID` of rule R8. -/
def ringValid (cfg : Params) : Bool :=
  ispow2 cfg.c0 && decide (cfg.c0 ≤ 0x80000000#32) && decide (0#32 < cfg.e0) && decide (cfg.e0.toNat % 4 = 0)

/-- `Q_VALID` of rule R8. -/
def qValid (cfg : Params) : Bool := decide (0#32 < cfg.maxThreads)

/-- `DQ_VALID` of rule R8. -/
def dqValid (cfg : Params) : Bool :=
  qValid cfg && ispow2 cfg.dqSize && decide (cfg.dqSize ≤ 0x80000000#32) && decide (0#32 < cfg.dqEsize)
    && decide (cfg.dqEsize.toNat % 4 = 0) && decide (cfg.dqPsync ≠ .st)

/-- The reset value of `STATUS` (rules R33, R41): bits 3:0 are `DQ_ALIVE`, `DQ_OK`, `Q_OK`, `R0_OK`. -/
def resetStatus (cfg : Params) : U64 :=
  0#60 ++ (BitVec.ofBool (dqValid cfg) ++ (BitVec.ofBool (dqValid cfg) ++ (BitVec.ofBool (qValid cfg) ++ BitVec.ofBool (ringValid cfg))))

/-- The reset value of `FAULT` (rules R34, R41): `F_CFG` in bit 0. -/
def resetFault (cfg : Params) : U64 :=
  0#63 ++ BitVec.ofBool (!(ringValid cfg && qValid cfg && dqValid cfg))

/-- The configuration of `State.reset` (log entry 3, DESIGN CHOICE): the spec leaves every parameter to the builder. -/
def defaultParams : Params where
  nports := 4
  c0 := 16#32
  e0 := 4#32
  psync0 := .mt
  csync0 := .mt
  htdCfg0 := none
  maxThreads := 4#32
  dqSize := 4#32
  dqEsize := 4#32
  triggerLimit := 8#32
  maxReclaim := 2#32
  dqCtx := 0xC0FFEE#64
  dqMt := .mp
  dqPsync := .rts

end Sys2Proof.Machine
end

