-- ==== Sys2Proof/Machine/State.lean ====
section
/-! DEFINITION. The state of the block (spec/10_state.md rules R20 to R38) as plain data, the reasons a step may stop, and
the state right after reset (rule R41). The fields `cfg`, `cur`, `sched` and `tick` are the model's own. -/

namespace Sys2Proof.Machine

/-- The labels of the labelled lines of spec/40 to spec/44, each one atomic step (spec/00_scope.md rule R12); `CP` is the
copy step of rule R130. -/
inductive Label where
  | m1 | m2 | m3 | m4 | m5
  | s1 | s2 | s3 | s4
  | h1 | h2 | h3 | h4 | h5
  | t1 | t2 | t3 | t4 | t5 | t6 | t7
  | cp
  | n1 | n2
  | g1 | u1 | q1 | q2 | a1
  | y1 | y2 | y3
  | l1 | l2
  | v1 | v2 | v3 | v4
  | x1 | x2
  | d1 | r1 | z0 | z1 | c1
  deriving DecidableEq, Repr

/-- The sub-sequences of rule R36. On the return stack of a port the name of a sub-sequence stands for the place in its
caller to which it returns; no caller calls one sub-sequence from two places (log entry 16). -/
inductive Seq where
  | ringop
  | reserve
  | copy
  | publish
  | cancel
  | countseq
  | checkseq
  | reclaimseq
  deriving DecidableEq, Repr

/-- `PHASE[p]` (rule R36): idle, or the label of the port's next step with the return stack, outermost call first. -/
inductive Phase where
  | idle
  | busy (l : Label) (st : List Seq)
  deriving DecidableEq, Repr

/-- The behaviour flag of a reservation (rule R37 latch `BEH`; spec/40 rule R122). -/
inductive Beh where
  | exact
  | upTo
  deriving DecidableEq, Repr

/-- The reclaim limit (rule R37 latch `LIM`): a `u32`, or `INF`. -/
inductive Limit where
  | num (n : U32)
  | inf
  deriving DecidableEq, Repr

/-- How a reclaim pass ended (rule R37 latch `WHY`). -/
inductive Why where
  | empty
  | blocked
  | limit
  deriving DecidableEq, Repr

/-- The latches of one port (rule R37), one field per row of its table. -/
structure Latches where
  cmd   : U128
  n     : U32
  beh   : Beh
  oh    : U32
  oc    : U32
  opt   : U32
  k     : U32
  otw   : U64
  hw    : U64
  tok   : U64
  t     : U64
  wt    : Bool
  wi    : U32
  bm    : U64
  minc  : U64
  seen  : Bool
  okf   : Bool
  rdr   : Bool
  qt    : U64
  ct    : U32
  cntv  : U32
  kq    : Bool
  freed : U32
  lim   : Limit
  why   : Why
  ent   : Element
  src   : Payload
  dst   : List Element
  deriving DecidableEq, Repr

/-- The latches of a port whose latches hold no value (rules R37, R41): the model's value for them is zero, the empty
list or the first constructor (log entry 4, DESIGN CHOICE). -/
def Latches.reset : Latches where
  cmd := 0#128
  n := 0#32
  beh := .exact
  oh := 0#32
  oc := 0#32
  opt := 0#32
  k := 0#32
  otw := 0#64
  hw := 0#64
  tok := 0#64
  t := 0#64
  wt := false
  wi := 0#32
  bm := 0#64
  minc := 0#64
  seen := false
  okf := false
  rdr := false
  qt := 0#64
  ct := 0#32
  cntv := 0#32
  kq := false
  freed := 0#32
  lim := .num 0#32
  why := .empty
  ent := []
  src := { size := 0, bytes := [] }
  dst := []

/-- A response on `RSPCH[p]` (rule R38; spec/30 rule R100): the response word and the elements of a dequeue. -/
structure Response where
  word    : U128
  payload : List Element
  deriving DecidableEq, Repr

/-- A message on `FREECH` (rule R38; spec/30 rule R103). -/
structure FreeMsg where
  ctx     : U64
  element : Element
  count   : U32
  deriving DecidableEq, Repr

/-- One port (rules R36, R37, R38): its phase, its latches and its two channels, oldest message first. -/
structure Port where
  phase : Phase
  lat   : Latches
  cmdch : List Message
  rspch : List Response
  deriving DecidableEq, Repr

/-- A port after reset (rule R41). -/
def Port.reset : Port where
  phase := .idle
  lat := Latches.reset
  cmdch := []
  rspch := []

/-- The single-agent owner register `SOWN[r][s]` (rule R25). -/
structure Owner where
  valid : Bool
  owner : Nat
  deriving DecidableEq, Repr

/-- The words of one side: `HT_A[r][s]`, `HT_B[r][s]` (rule R21) and `SOWN[r][s]` (rule R25). -/
structure SideRegs where
  a    : U64
  b    : U64
  sown : Owner
  deriving DecidableEq, Repr

/-- A side after reset (rule R41). -/
def SideRegs.reset : SideRegs where
  a := 0#64
  b := 0#64
  sown := { valid := false, owner := 0 }

/-- Ring storage `MEM[r]` (rule R26): the bytes that hold a value, addresses strictly rising; a byte that no step has
written since reset is not listed and holds no value (log entry 5). -/
abbrev Memory := List Host.Cell

/-- One ring: its two sides and its storage (rules R20, R26). -/
structure Ring where
  prod : SideRegs
  cons : SideRegs
  mem  : Memory
  deriving DecidableEq, Repr

/-- A ring after reset (rule R41): empty, every slot without a value. -/
def Ring.reset : Ring where
  prod := SideRegs.reset
  cons := SideRegs.reset
  mem := []

/-- The state of the block (rule R20): shared state, the ports, the channels; and the model's own fields.
`cfg` is the configuration latched at reset (rule R280), which no step but a reset changes; `cur` is the port the arbiter
granted last; `sched` lists the events that are to happen next, and `tick` counts the events taken as free values
(log entries 2, 3, 17). -/
structure State where
  cfg        : Params
  fifo       : Ring
  defer      : Ring
  token      : U64
  acked      : U64
  bitmap     : List U64
  numThreads : U32
  cnt        : List U64
  lockcnt    : List U32
  status     : U64
  fault      : U64
  ports      : List Port
  freech     : List FreeMsg
  cur        : Nat
  sched      : List Event
  tick       : Nat
  deriving DecidableEq, Repr

/-- Why the model stops. None of these is a fault of the block (its own faults are the bits of the register `FAULT`,
spec/60 rule R254, after which it goes on). -/
inductive Fault where
  /-- A copy reads a ring slot that no step has written since reset, which holds no value (rule R26). Raised by the steps
  `CP` of a dequeue and `X1` of a reclaim pass. Safe: the spec gives the read no value (log entry 5). -/
  | unwrittenSlot
  /-- A storage access outside the `C[r] * E[r]` bytes of `MEM[r]`, or to the storage of an invalid ring, which does not
  exist (spec/20 rule R60, spec/60 rule R256). Safe: no step of a valid unit makes one (log entry 6). -/
  | noSuchAddress
  /-- The phase of the port is no label of the command it executes. Raised by every meaning. Safe: no run from reset
  reaches such a state (log entry 7). -/
  | strayPhase
  /-- The acceptance step is asked for with an empty command channel (rule R92 accepts only a waiting command). Safe: the
  arbiter does not grant such a port (log entry 7). -/
  | noCommand
  /-- A busy port holds a command word that does not decode. Raised by the arbiter. Safe: acceptance latches only words
  that decode (log entry 7). -/
  | lostCommand
  /-- The granted port number is not below `NPORTS`. Raised by every meaning. Safe: the arbiter grants only ports that
  exist (log entry 7). -/
  | noSuchPort
  deriving DecidableEq, Repr

/-- Why the model has no meaning for a command. -/
inductive Refusal where
  /-- The command has no meaning yet; raised by an arm of `exec` only. Safe. No arm of this model raises it. -/
  | notModelled (mnemonic : String)
  deriving DecidableEq, Repr

/-- The state right after reset with a configuration (rules R41, R280). -/
def State.resetWith (cfg : Params) : State where
  cfg := cfg
  fifo := Ring.reset
  defer := Ring.reset
  token := 0#64
  acked := 0#64
  bitmap := List.replicate (nwords cfg) 0#64
  numThreads := 0#32
  cnt := List.replicate cfg.maxThreads.toNat 0#64
  lockcnt := List.replicate cfg.maxThreads.toNat 0#32
  status := resetStatus cfg
  fault := resetFault cfg
  ports := List.replicate cfg.nports Port.reset
  freech := []
  cur := 0
  sched := []
  tick := 0

/-- The state right after reset, with the configuration of log entry 3. -/
def State.reset : State := State.resetWith defaultParams

end Sys2Proof.Machine
end

