-- ==== Sys2Proof/Machine/Flags.lean ====
section
/-! DEFINITION. The block's only flags (spec/10_state.md rules R33, R34): the bits of `STATUS` and the sticky bits of
`FAULT`. No command's behaviour depends on the result of an earlier one except through shared state, so there are no
condition codes. -/

namespace Sys2Proof.Machine

/-- The sticky bits of `FAULT` (rule R34). -/
inductive FaultBit where
  | cfg
  | single
  | tokwrap
  deriving DecidableEq, Repr

/-- The word with only that bit set. -/
def FaultBit.mask : FaultBit → U64
  | .cfg => 1#64
  | .single => 2#64
  | .tokwrap => 4#64

/-- `STATUS.R0_OK`. -/
def State.r0Ok (s : State) : Bool := s.status.getLsbD 0

/-- `STATUS.Q_OK`. -/
def State.qOk (s : State) : Bool := s.status.getLsbD 1

/-- `STATUS.DQ_OK`. -/
def State.dqOk (s : State) : Bool := s.status.getLsbD 2

/-- `STATUS.DQ_ALIVE`. -/
def State.dqAlive (s : State) : Bool := s.status.getLsbD 3

/-- Set a sticky bit of `FAULT`; no step clears one (rule R34). -/
def State.setFault (s : State) (f : FaultBit) : State := { s with fault := s.fault ||| f.mask }

/-- `DQKILL` (spec/20 rule R66): clear `STATUS.DQ_ALIVE`. -/
def State.killDq (s : State) : State := { s with status := s.status &&& ~~~(8#64) }

/-- The unit check of spec/30 rule R97. -/
def State.unitOk (s : State) : CmdUnit → Bool
  | .ring => s.r0Ok
  | .qsbr => s.qOk
  | .deferQueue => s.dqOk
  | .system => true

end Sys2Proof.Machine
end

