-- ==== Sys2Proof/Machine/Ops.lean ====
section
/-! DEFINITION. The named operations over ring storage, control words, QSBR registers, latches and channels; the answer
to a command (`respond`), the block's one kind of exception (`raiseFault`, spec/60 rule R254), and the shape that every
command's meaning has: the acceptance step and the labelled lines (`runCommand`). -/

namespace Sys2Proof.Machine

/-! ### Ring storage (spec/20 rule R61) -/

/-- What a byte address holds: a value, or no value (spec/10 rule R26). -/
def Memory.read : Memory → Nat → Option Byte
  | [], _ => none
  | (b, v) :: m, a => if b = a then some v else if a < b then none else Memory.read m a

/-- Write one byte, keeping the addresses strictly rising. -/
def Memory.write : Memory → Nat → Byte → Memory
  | [], a, x => [(a, x)]
  | (b, v) :: m, a, x =>
    if b = a then (a, x) :: m
    else if a < b then (a, x) :: (b, v) :: m
    else (b, v) :: Memory.write m a x

/-- The canonical form: addresses strictly rising. An unlisted address holds no value, so no entry can equal it. -/
def Memory.wf : Memory → Bool
  | [] => true
  | [_] => true
  | (a, _) :: (b, w) :: m => decide (a < b) && Memory.wf ((b, w) :: m)

/-- The `n` bytes from address `a` on, if every one of them holds a value. -/
def Memory.readBytes (m : Memory) (a : Nat) : Nat → Option (List Byte)
  | 0 => some []
  | n + 1 =>
    match m.read a, Memory.readBytes m (a + 1) n with
    | some v, some vs => some (v :: vs)
    | _, _ => none

/-- Write bytes from address `a` on. -/
def Memory.writeBytes (m : Memory) (a : Nat) : List Byte → Memory
  | [] => m
  | v :: vs => Memory.writeBytes (m.write a v) (a + 1) vs

/-- A ring's part of the state. -/
def State.ring (s : State) : RingId → Ring
  | .fifo => s.fifo
  | .defer => s.defer

/-- Replace a ring's part of the state. -/
def State.setRing (s : State) (r : RingId) (x : Ring) : State :=
  match r with
  | .fifo => { s with fifo := x }
  | .defer => { s with defer := x }

/-- `slot(r, x)` of rule R61. -/
def slotOf (cfg : Params) (r : RingId) (x : U32) : U32 := x &&& maskOf cfg r

/-- `addr(r, x)` of rule R61, computed without overflow. -/
def addrOf (cfg : Params) (r : RingId) (x : U32) : Nat := (slotOf cfg r x).toNat * esize cfg r

/-- The number of bytes of `MEM[r]` (spec/10 rule R26). -/
def memSize (cfg : Params) (r : RingId) : Nat := (cap cfg r).toNat * esize cfg r

/-- `MemRead(r, a, n)` of rule R61. -/
def State.memRead (s : State) (r : RingId) (a n : Nat) : Except Fault (List Byte) :=
  if a + n ≤ memSize s.cfg r then
    match (s.ring r).mem.readBytes a n with
    | some bs => .ok bs
    | none => .error .unwrittenSlot
  else .error .noSuchAddress

/-- `MemWrite(r, a, n, v)` of rule R61, for the `n` bytes of `v`. -/
def State.memWrite (s : State) (r : RingId) (a : Nat) (v : List Byte) : Except Fault State :=
  if a + v.length ≤ memSize s.cfg r then
    .ok (s.setRing r { s.ring r with mem := (s.ring r).mem.writeBytes a v })
  else .error .noSuchAddress

/-! ### The codec and the control words (spec/40 rule R120, spec/10 rules R21, R22, R24) -/

/-- `pack(lo, hi)` of rule R120. -/
def pack (lo hi : U32) : U64 := hi ++ lo

/-- `lo(w)` of rule R120. -/
def loOf (w : U64) : U32 := w.extractLsb' 0 32

/-- `hi(w)` of rule R120. -/
def hiOf (w : U64) : U32 := w.extractLsb' 32 32

/-- A 32-bit store to the low half of a 64-bit word (spec/20 rule R62: one half of a control word). -/
def storeLo (w : U64) (v : U32) : U64 := pack v (hiOf w)

/-- A 32-bit store to the high half of a 64-bit word. -/
def storeHi (w : U64) (v : U32) : U64 := pack (loOf w) v

/-- A side's part of a ring. -/
def Ring.side (x : Ring) : Side → SideRegs
  | .prod => x.prod
  | .cons => x.cons

/-- Replace a side's part of a ring. -/
def Ring.setSide (x : Ring) (sd : Side) (w : SideRegs) : Ring :=
  match sd with
  | .prod => { x with prod := w }
  | .cons => { x with cons := w }

/-- The words of side `(r, sd)`. -/
def State.side (s : State) (r : RingId) (sd : Side) : SideRegs := (s.ring r).side sd

/-- Replace the words of side `(r, sd)`. -/
def State.setSide (s : State) (r : RingId) (sd : Side) (w : SideRegs) : State :=
  s.setRing r ((s.ring r).setSide sd w)

/-- Store `HT_A[r][sd]`. -/
def State.setA (s : State) (r : RingId) (sd : Side) (w : U64) : State :=
  s.setSide r sd { s.side r sd with a := w }

/-- Store `HT_B[r][sd]`. -/
def State.setB (s : State) (r : RingId) (sd : Side) (w : U64) : State :=
  s.setSide r sd { s.side r sd with b := w }

/-- Store `SOWN[r][sd]`. -/
def State.setSown (s : State) (r : RingId) (sd : Side) (o : Owner) : State :=
  s.setSide r sd { s.side r sd with sown := o }

/-- `HEADW(r,s)` of rule R22. -/
def State.headw (s : State) (r : RingId) (sd : Side) : U32 := loOf (s.side r sd).a

/-- `TAILVIEW(r,s)` of rule R22. -/
def State.tailview (s : State) (r : RingId) (sd : Side) : U32 :=
  match syncOf s.cfg r sd with
  | .hts => hiOf (s.side r sd).a
  | .st => loOf (s.side r sd).b
  | .mt => loOf (s.side r sd).b
  | .rts => loOf (s.side r sd).b

/-- `HEADCNT(r,s)` of rule R22. -/
def State.headcnt (s : State) (r : RingId) (sd : Side) : U32 := hiOf (s.side r sd).a

/-- `TAILCNT(r,s)` of rule R22. -/
def State.tailcnt (s : State) (r : RingId) (sd : Side) : U32 := hiOf (s.side r sd).b

/-- `open(r,s)` of rule R24. -/
def State.sideOpen (s : State) (r : RingId) (sd : Side) : Bool :=
  match syncOf s.cfg r sd with
  | .rts => decide (s.headcnt r sd ≠ s.tailcnt r sd)
  | .st => decide (s.headw r sd ≠ s.tailview r sd)
  | .mt => decide (s.headw r sd ≠ s.tailview r sd)
  | .hts => decide (s.headw r sd ≠ s.tailview r sd)

/-- `ST32(HEADW(r,s), v)`. -/
def State.storeHead (s : State) (r : RingId) (sd : Side) (v : U32) : State :=
  s.setA r sd (storeLo (s.side r sd).a v)

/-- `ST32(TAILVIEW(r,s), v)`. -/
def State.storeTail (s : State) (r : RingId) (sd : Side) (v : U32) : State :=
  match syncOf s.cfg r sd with
  | .hts => s.setA r sd (storeHi (s.side r sd).a v)
  | .st => s.setB r sd (storeLo (s.side r sd).b v)
  | .mt => s.setB r sd (storeLo (s.side r sd).b v)
  | .rts => s.setB r sd (storeLo (s.side r sd).b v)

/-- The owner register of a side no port owns (rule R126: `SOWN <- (0, 0)`). -/
def Owner.free : Owner := { valid := false, owner := 0 }

/-! ### Ports, latches, channels (spec/10 rules R36 to R38) -/

/-- The port that takes this step. -/
def State.port (s : State) : Port := s.ports.getD s.cur Port.reset

/-- Its `PHASE`. -/
def State.phase (s : State) : Phase := s.port.phase

/-- Its latches. -/
def State.lat (s : State) : Latches := s.port.lat

/-- Change port `p`. -/
def State.updPortAt (s : State) (p : Nat) (f : Port → Port) : State :=
  { s with ports := s.ports.modify p f }

/-- Change the port that takes this step. -/
def State.updPort (s : State) (f : Port → Port) : State := s.updPortAt s.cur f

/-- Change its latches. -/
def State.updLat (s : State) (f : Latches → Latches) : State :=
  s.updPort fun q => { q with lat := f q.lat }

/-- `goto`: change its `PHASE` (spec/00 rule R11). -/
def State.setPhase (s : State) (ph : Phase) : State := s.updPort fun q => { q with phase := ph }

/-- `respond(st, cnt, val)` with a payload (rule R11; spec/30 rule R100): append the response, the port is idle. -/
def State.respondWith (s : State) (st : Status) (cnt : U32) (val : U64) (payload : List Element) : State :=
  s.updPort fun q =>
    { q with phase := .idle, rspch := q.rspch ++ [{ word := responseWord st cnt val, payload := payload }] }

/-- `respond(st, cnt, val)` with an empty payload. -/
def State.respond (s : State) (st : Status) (cnt : U32) (val : U64) : State := s.respondWith st cnt val []

/-- Append a message to `FREECH` (rule R38). -/
def State.emitFree (s : State) (m : FreeMsg) : State := { s with freech := s.freech ++ [m] }

/-! ### QSBR registers (spec/10 rules R27 to R32) -/

/-- `regd(i)` of rule R29. -/
def State.regd (s : State) (i : Nat) : Bool := (s.bitmap.getD (i / 64) 0#64).getLsbD (i % 64)

/-- The word with only bit `j` set. -/
def bit64 (j : Nat) : U64 := 1#64 <<< j

/-- Set the bitmap bit of thread `i`. -/
def State.setRegd (s : State) (i : Nat) : State :=
  { s with bitmap := s.bitmap.modify (i / 64) fun w => w ||| bit64 (i % 64) }

/-- Clear the bitmap bit of thread `i`. -/
def State.clearRegd (s : State) (i : Nat) : State :=
  { s with bitmap := s.bitmap.modify (i / 64) fun w => w &&& ~~~(bit64 (i % 64)) }

/-- `CNT[i]`. -/
def State.cntOf (s : State) (i : Nat) : U64 := s.cnt.getD i 0#64

/-- `ST64(CNT[i], v)`. -/
def State.setCnt (s : State) (i : Nat) (v : U64) : State := { s with cnt := s.cnt.set i v }

/-- `LOCKCNT[i]`. -/
def State.lockOf (s : State) (i : Nat) : U32 := s.lockcnt.getD i 0#32

/-- Store `LOCKCNT[i]`. -/
def State.setLock (s : State) (i : Nat) (v : U32) : State := { s with lockcnt := s.lockcnt.set i v }

/-- Store `NUM_THREADS`. -/
def State.setNumThreads (s : State) (v : U32) : State := { s with numThreads := v }

/-- Store `TOKEN`. -/
def State.setToken (s : State) (v : U64) : State := { s with token := v }

/-- `MAX64(ACKED_TOKEN, v)` of spec/20 rule R66. -/
def State.maxAcked (s : State) (v : U64) : State :=
  { s with acked := if s.acked < v then v else s.acked }

/-! ### What one labelled line does to the control flow of its port (spec/00 rule R12) -/

/-- The outcome of a labelled line within a sub-sequence: the port's next label with the return stack below this
sub-sequence, or the sub-sequence has returned to its caller in this step, or the command has responded, or the model
stops. -/
inductive Flow where
  | goto (l : Label) (st : List Seq) (s : State)
  | ret (s : State)
  | ended (s : State)
  | stop (f : Fault)

/-- A line of the sub-sequence `q` seen from its caller, which goes on with `k` in the same step when `q` returns. -/
def Flow.within (x : Flow) (q : Seq) (k : State → Flow) : Flow :=
  match x with
  | .goto l st s => .goto l (q :: st) s
  | .ret s => k s
  | .ended s => .ended s
  | .stop f => .stop f

/-- A line of a command's own code as the step of its port: the next label becomes `PHASE`. -/
def Flow.outcome : Flow → Host.Outcome State Fault Refusal
  | .goto l st s => .next (s.setPhase (.busy l st))
  | .ended s => .next s
  | .ret _ => .fault .strayPhase
  | .stop f => .fault f

/-- Go on with the value of a storage access, or stop. -/
def Flow.ofExcept {α : Type} (x : Except Fault α) (k : α → Flow) : Flow :=
  match x with
  | .ok v => k v
  | .error f => .stop f

/-- `raise Fault(F_x)` (spec/60 rule R254), the block's one exception: the sticky bit is set, the response is
`(E_FAULT, 0, 0)`, the port is idle; nothing is saved and nothing is returned to (rules R255, R260). -/
def raiseFault (f : FaultBit) (s : State) : Flow := .ended ((s.setFault f).respond .eFault 0#32 0#64)

/-- `TKINC` (spec/42 rule R198): issue the next token, or raise `F_TOKWRAP` (rule R199). -/
def tkinc (s : State) (k : State → Flow) : Flow :=
  if s.token = 0xFFFFFFFFFFFFFFFF#64 then raiseFault .tokwrap s
  else
    let s1 := s.setToken (s.token + 1#64)
    k (s1.updLat fun l => { l with tok := s1.token })

/-! ### Acceptance (spec/30 rule R92) and the shape of a command's meaning -/

/-- Latch an accepted command: every latch but `CMD` and `SRC` holds no value (spec/10 rule R37). -/
def State.latch (s : State) (m : Message) : State :=
  s.updLat fun _ => { Latches.reset with cmd := m.word, src := m.payload }

/-- Consume the oldest message of the port's command channel. -/
def State.popCmd (s : State) : State := s.updPort fun q => { q with cmdch := q.cmdch.tail }

/-- The `ACCEPT` step of a command that has decoded: the unit check (rule R97), the operand check (rule R98), the
short-cut for a ring command with `n = 0`, else latch the command and go to its first label. -/
def accept (u : CmdUnit) (operandError zeroCount : Bool) (enter : State → Flow) (s : State) : Flow :=
  match s.port.cmdch with
  | [] => .stop .noCommand
  | m :: _ =>
    if !(s.unitOk u) then .ended (s.popCmd.respond .eCfg 0#32 0#64)
    else if operandError then .ended (s.popCmd.respond .eInval 0#32 0#64)
    else if zeroCount then .ended (s.popCmd.respond .ok 0#32 0#64)
    else enter (s.popCmd.latch m)

/-- The `ACCEPT` step of a message that does not decode (rules R92, R95): it is consumed and answered `E_ILLCMD`. -/
def State.acceptIllegal (s : State) : State := s.popCmd.respond .eIllcmd 0#32 0#64

/-- One step of the granted port on a command: the acceptance step when the port is idle, else the labelled line its
phase names. -/
def runCommand (acceptStep : State → Flow) (line : Label → List Seq → State → Flow) (s : State) :
    Host.Outcome State Fault Refusal :=
  if s.cur < s.ports.length then
    match s.phase with
    | .idle => (acceptStep s).outcome
    | .busy l st => (line l st s).outcome
  else .fault .noSuchPort

end Sys2Proof.Machine
end

