-- ==== Sys2Proof/Machine/Operands.lean ====
section
/-! DEFINITION. What a command's operands mean: the operand check at acceptance (spec/30 rule R98), the CSR map
(spec/10 rule R40), availability and clamping of a requested count (spec/40 rules R121, R122), and the layout of a
defer-queue entry (spec/43 rule R221). -/

namespace Sys2Proof.Machine

/-- `tid >= MAX_THREADS` (rule R98). -/
def tidOutOfRange (cfg : Params) (tid : U32) : Bool := decide (cfg.maxThreads ≤ tid)

/-- `SOWN_*` as a CSR (rule R40): `[0]` is `valid`, `[63:32]` is `owner`, 0 when not valid. -/
def Owner.csr (o : Owner) : U64 :=
  if o.valid then pack 1#32 (BitVec.ofNat 32 o.owner) else 0#64

/-- The sync tags of a ring as a CSR (rule R40): `[1:0]` producer, `[3:2]` consumer. -/
def syncCsr (cfg : Params) (r : RingId) : U64 :=
  0#60 ++ (syncTag (syncOf cfg r .cons) ++ syncTag (syncOf cfg r .prod))

/-- A scalar register: `IDX` must be 0 (rule R39). -/
def csrScalar (idx : U64) (v : U64) : Option U64 := if idx = 0#64 then some v else none

/-- A banked register of `n` entries (rule R40). -/
def csrBank (n : Nat) (idx : U64) (v : Nat → U64) : Option U64 :=
  if idx.toNat < n then some (v idx.toNat) else none

/-- `csr(REG, IDX)`, zero-extended to 64 bits (rules R39, R40); `none` where the pair is not in the map. -/
def State.csr (s : State) (reg : U32) (idx : U64) : Option U64 :=
  match reg with
  | 0x0000#32 => csrScalar idx (BitVec.ofNat 64 s.cfg.nports)
  | 0x0010#32 => csrScalar idx (s.cfg.c0.setWidth 64)
  | 0x0011#32 => csrScalar idx (s.cfg.e0.setWidth 64)
  | 0x0012#32 => csrScalar idx (syncCsr s.cfg .fifo)
  | 0x0013#32 => csrScalar idx ((htdMax s.cfg .fifo).setWidth 64)
  | 0x0020#32 => csrScalar idx (s.cfg.dqSize.setWidth 64)
  | 0x0021#32 => csrScalar idx (BitVec.ofNat 64 (esize s.cfg .defer))
  | 0x0022#32 => csrScalar idx (syncCsr s.cfg .defer)
  | 0x0023#32 => csrScalar idx ((htdMax s.cfg .defer).setWidth 64)
  | 0x0030#32 => csrScalar idx (s.cfg.maxThreads.setWidth 64)
  | 0x0040#32 => csrScalar idx (s.cfg.triggerLimit.setWidth 64)
  | 0x0041#32 => csrScalar idx (s.cfg.maxReclaim.setWidth 64)
  | 0x0042#32 => csrScalar idx s.cfg.dqCtx
  | 0x0043#32 => csrScalar idx (s.cfg.dqEsize.setWidth 64)
  | 0x0044#32 => csrScalar idx (match s.cfg.dqMt with | .sp => 0#64 | .mp => 1#64)
  | 0x0100#32 => csrScalar idx (s.side .fifo .prod).a
  | 0x0101#32 => csrScalar idx (s.side .fifo .prod).b
  | 0x0102#32 => csrScalar idx (s.side .fifo .cons).a
  | 0x0103#32 => csrScalar idx (s.side .fifo .cons).b
  | 0x0110#32 => csrScalar idx (s.side .defer .prod).a
  | 0x0111#32 => csrScalar idx (s.side .defer .prod).b
  | 0x0112#32 => csrScalar idx (s.side .defer .cons).a
  | 0x0113#32 => csrScalar idx (s.side .defer .cons).b
  | 0x0120#32 => csrScalar idx (s.side .fifo .prod).sown.csr
  | 0x0121#32 => csrScalar idx (s.side .fifo .cons).sown.csr
  | 0x0122#32 => csrScalar idx (s.side .defer .prod).sown.csr
  | 0x0123#32 => csrScalar idx (s.side .defer .cons).sown.csr
  | 0x0200#32 => csrScalar idx s.token
  | 0x0201#32 => csrScalar idx s.acked
  | 0x0202#32 => csrScalar idx (s.numThreads.setWidth 64)
  | 0x0300#32 => csrScalar idx s.status
  | 0x0301#32 => csrScalar idx s.fault
  | 0x1000#32 => csrBank (nwords s.cfg) idx fun i => s.bitmap.getD i 0#64
  | 0x1001#32 => csrBank s.cfg.maxThreads.toNat idx s.cntOf
  | 0x1002#32 => csrBank s.cfg.maxThreads.toNat idx fun i => (s.lockOf i).setWidth 64
  | _ => none

/-- `avail(r, s, oh, opt)` of rule R121: free slots for a producer, filled slots for a consumer. -/
def avail (cfg : Params) (r : RingId) (sd : Side) (oh opt : U32) : U32 :=
  match sd with
  | .prod => cap cfg r + opt - oh
  | .cons => opt - oh

/-- `clamp(av, n, beh)` of rule R122. -/
def clamp (av n : U32) : Beh → U32
  | .exact => if n ≤ av then n else 0#32
  | .upTo => if n ≤ av then n else av

/-- `entry(tok, elem)` of rule R221. -/
def entryBytes (tok : U64) (elem : Element) : List Byte := leBytes 8 tok.toNat ++ elem

/-- `etoken(ent)` of rule R221. -/
def entryToken (ent : Element) : U64 := BitVec.ofNat 64 (leValue (ent.take 8))

/-- `eelem(ent)` of rule R221. -/
def entryElem (ent : Element) : Element := ent.drop 8

/-- The bytes of a FREE message (spec/30 rule R103): `LE64(ctx)`, the count in 4 bytes, the element. -/
def FreeMsg.bytes (m : FreeMsg) : List Byte := leBytes 8 m.ctx.toNat ++ leBytes 4 m.count.toNat ++ m.element

end Sys2Proof.Machine
end

