-- ==== Sys2Proof/Machine/RingProtocols.lean ====
section
/-! DEFINITION. The sub-sequences of spec/40_ring_protocols.md: `RESERVE` under the four disciplines (rules R125 to R128),
`COPY` (rule R130), `PUBLISH` (rules R133 to R136), `CANCEL` (rule R137), `RINGOP` (rule R138), and `COUNTSEQ`
(spec/41 rule R176). Each function is one labelled line of the executing port; a label of another sub-sequence is a
state no run reaches. -/

namespace Sys2Proof.Machine

/-! ### RESERVE -/

/-- The first label of `RESERVE` under a discipline (rule R123). -/
def reserveFirst : Sync → Label
  | .st => .s1
  | .mt => .m1
  | .hts => .h1
  | .rts => .t1

/-- `RESERVE(r, sd, n, beh)`: the call, which binds the latches `N` and `BEH` in the caller's step (log entry 14). -/
def reserveCall (r : RingId) (sd : Side) (n : U32) (beh : Beh) (s : State) : Flow :=
  .goto (reserveFirst (syncOf s.cfg r sd)) [] (s.updLat fun l => { l with n := n, beh := beh })

/-- The opposing tail is loaded and `L.K` computed from it (lines `M2`, `S2`, `H2`, `T3`). -/
def State.loadAvail (s : State) (r : RingId) (sd : Side) : State :=
  let opt := s.tailview r sd.opp
  s.updLat fun l => { l with opt := opt, k := clamp (avail s.cfg r sd l.oh opt) l.n l.beh }

/-- Lines `M2`, `H2`, `T3`: with `L.K = 0` the reservation has found nothing and nothing was written. -/
def reserveAvail (r : RingId) (sd : Side) (next : Label) (s : State) : Flow :=
  let s1 := s.loadAvail r sd
  if s1.lat.k = 0#32 then .ret s1 else .goto next [] s1

/-- Line `S2`: as `reserveAvail`, and a reservation that finds nothing gives the side back in the same transaction. -/
def reserveAvailSt (r : RingId) (sd : Side) (s : State) : Flow :=
  let s1 := s.loadAvail r sd
  if s1.lat.k = 0#32 then .ret (s1.setSown r sd Owner.free) else .goto .s3 [] s1

/-- Line `S1` (`OWNLD`): a side that another port owns raises `F_SINGLE`; else take it and load the head. -/
def reserveOwn (r : RingId) (sd : Side) (s : State) : Flow :=
  if (s.side r sd).sown.valid then raiseFault .single s
  else
    let s1 := s.setSown r sd { valid := true, owner := s.cur }
    .goto .s2 [] (s1.updLat fun l => { l with oh := s.headw r sd })

/-- Line `M3`: `CAS32` of the head; a lost CAS retries the whole sequence. -/
def reserveCasMt (r : RingId) (sd : Side) (s : State) : Flow :=
  if s.headw r sd = s.lat.oh then .ret (s.storeHead r sd (s.lat.oh + s.lat.k)) else .goto .m1 [] s

/-- Line `H1`: spin while a reservation is open on the side, else take its head. -/
def reserveLoadHts (r : RingId) (sd : Side) (s : State) : Flow :=
  let w := (s.side r sd).a
  if loOf w ≠ hiOf w then .goto .h1 [] s else .goto .h2 [] (s.updLat fun l => { l with oh := loOf w })

/-- Line `H3`: `CAS64` of the packed word, from closed to open. -/
def reserveCasHts (r : RingId) (sd : Side) (s : State) : Flow :=
  if (s.side r sd).a = pack s.lat.oh s.lat.oh then
    .ret (s.setA r sd (pack (s.lat.oh + s.lat.k) s.lat.oh))
  else .goto .h1 [] s

/-- Line `T1`: load the packed head word. -/
def reserveLoadRts (r : RingId) (sd : Side) (s : State) : Flow :=
  let w := (s.side r sd).a
  .goto .t2 [] (s.updLat fun l => { l with oh := loOf w, oc := hiOf w })

/-- Line `T2`: spin while the head-tail distance is above `HTD_MAX[r]` (rules R128, R129). -/
def reserveWaitRts (r : RingId) (sd : Side) (s : State) : Flow :=
  if htdMax s.cfg r < s.lat.oh - s.tailview r sd then .goto .t1 [] s else .goto .t3 [] s

/-- Line `T4`: `CAS64` of the packed head word; the counter advances by 1 whatever `L.K` is. -/
def reserveCasRts (r : RingId) (sd : Side) (s : State) : Flow :=
  if (s.side r sd).a = pack s.lat.oh s.lat.oc then
    .ret (s.setA r sd (pack (s.lat.oh + s.lat.k) (s.lat.oc + 1#32)))
  else .goto .t1 [] s

/-- One line of `RESERVE(r, sd, ..)` (rules R125 to R128). -/
def reserveLine (r : RingId) (sd : Side) (l : Label) (s : State) : Flow :=
  match l with
  | .m1 => .goto .m2 [] (s.updLat fun x => { x with oh := s.headw r sd })
  | .m2 => reserveAvail r sd .m3 s
  | .m3 => reserveCasMt r sd s
  | .s1 => reserveOwn r sd s
  | .s2 => reserveAvailSt r sd s
  | .s3 => .ret (s.storeHead r sd (s.lat.oh + s.lat.k))
  | .h1 => reserveLoadHts r sd s
  | .h2 => reserveAvail r sd .h3 s
  | .h3 => reserveCasHts r sd s
  | .t1 => reserveLoadRts r sd s
  | .t2 => reserveWaitRts r sd s
  | .t3 => reserveAvail r sd .t4 s
  | .t4 => reserveCasRts r sd s
  | _ => .stop .strayPhase

/-! ### COPY -/

/-- `COPYW` (rule R130): the first `k` elements of `L.SRC` into the slots from position `L.OH` on, element 0 first. -/
def State.copyIn (s : State) (r : RingId) : Nat → Except Fault State
  | 0 => .ok s
  | k + 1 =>
    match State.copyIn s r k with
    | .error f => .error f
    | .ok s1 =>
      s1.memWrite r (addrOf s.cfg r (s.lat.oh + BitVec.ofNat 32 k)) (s.lat.src.elem (esize s.cfg r) k)

/-- `COPYR` (rule R130): the elements of the `k` slots from position `L.OH` on. -/
def State.copyOut (s : State) (r : RingId) : Nat → Except Fault (List Element)
  | 0 => .ok []
  | k + 1 =>
    match State.copyOut s r k with
    | .error f => .error f
    | .ok es =>
      match s.memRead r (addrOf s.cfg r (s.lat.oh + BitVec.ofNat 32 k)) (esize s.cfg r) with
      | .error f => .error f
      | .ok e => .ok (es ++ [e])

/-- Line `CP` of rule R130. -/
def copyLine (r : RingId) (sd : Side) (s : State) : Flow :=
  match sd with
  | .prod => Flow.ofExcept (s.copyIn r s.lat.k.toNat) Flow.ret
  | .cons => Flow.ofExcept (s.copyOut r s.lat.k.toNat) fun es => .ret (s.updLat fun l => { l with dst := es })

/-! ### PUBLISH and CANCEL -/

/-- The first label of `PUBLISH` under a discipline (rule R132). -/
def publishFirst : Sync → Label
  | .st => .s4
  | .mt => .m4
  | .hts => .h4
  | .rts => .t5

/-- `rts_next(otw, hw)` of rule R136: the counter advances; the position jumps when this publisher is the last one. -/
def rtsNext (otw hw : U64) : U64 :=
  pack (if hiOf otw + 1#32 = hiOf hw then loOf hw else loOf otw) (hiOf otw + 1#32)

/-- Line `S4` (rule R134): store the tail and give the side back in one transaction. -/
def publishSt (r : RingId) (sd : Side) (s : State) : Flow :=
  .ret ((s.storeTail r sd (s.lat.oh + s.lat.k)).setSown r sd Owner.free)

/-- Line `M4` (rule R133): spin until every earlier reservation is published. -/
def publishTurn (r : RingId) (sd : Side) (s : State) : Flow :=
  if s.tailview r sd ≠ s.lat.oh then .goto .m4 [] s else .goto .m5 [] s

/-- Line `H4` (rule R135): both halves of the word become the new head. -/
def publishHts (r : RingId) (sd : Side) (s : State) : Flow :=
  .ret (s.setA r sd (pack (s.lat.oh + s.lat.k) (s.lat.oh + s.lat.k)))

/-- Line `T7` (rule R136): `CAS64` of the tail word. -/
def publishCasRts (r : RingId) (sd : Side) (s : State) : Flow :=
  if (s.side r sd).b = s.lat.otw then .ret (s.setB r sd (rtsNext s.lat.otw s.lat.hw)) else .goto .t5 [] s

/-- One line of `PUBLISH(r, sd)` (rules R133 to R136). -/
def publishLine (r : RingId) (sd : Side) (l : Label) (s : State) : Flow :=
  match l with
  | .m4 => publishTurn r sd s
  | .m5 => .ret (s.storeTail r sd (s.lat.oh + s.lat.k))
  | .s4 => publishSt r sd s
  | .h4 => publishHts r sd s
  | .t5 => .goto .t6 [] (s.updLat fun x => { x with otw := (s.side r sd).b })
  | .t6 => .goto .t7 [] (s.updLat fun x => { x with hw := (s.side r sd).a })
  | .t7 => publishCasRts r sd s
  | _ => .stop .strayPhase

/-- One line of `CANCEL(r, sd)` (rule R137): the word is what it was before `H3`. -/
def cancelLine (r : RingId) (sd : Side) (l : Label) (s : State) : Flow :=
  match l with
  | .h5 => .ret (s.setA r sd (pack s.lat.oh s.lat.oh))
  | _ => .stop .strayPhase

/-! ### RINGOP -/

/-- `RINGOP(r, sd, n, beh)` (rule R138): the call. -/
def ringopCall (r : RingId) (sd : Side) (n : U32) (beh : Beh) (s : State) : Flow :=
  (reserveCall r sd n beh s).within .reserve .ret

/-- `RINGOP` after its `RESERVE`: nothing reserved, or go on to `COPY`. -/
def ringopReserved (s : State) : Flow :=
  if s.lat.k = 0#32 then .ret s else .goto .cp [.copy] s

/-- One line of `RINGOP(r, sd, ..)`, `st` being the return stack inside it. -/
def ringopLine (r : RingId) (sd : Side) (l : Label) (st : List Seq) (s : State) : Flow :=
  match st, l with
  | [.reserve], _ => (reserveLine r sd l s).within .reserve ringopReserved
  | [.copy], .cp =>
    (copyLine r sd s).within .copy fun s1 => .goto (publishFirst (syncOf s1.cfg r sd)) [.publish] s1
  | [.publish], _ => (publishLine r sd l s).within .publish Flow.ret
  | _, _ => .stop .strayPhase

/-! ### COUNTSEQ -/

/-- `COUNTSEQ(r)` (spec/41 rule R176): the call. -/
def countCall (s : State) : Flow := .goto .n1 [] s

/-- The clamped difference of line `N2`. -/
def countOf (cfg : Params) (r : RingId) (pt ct : U32) : U32 :=
  if pt - ct ≤ cap cfg r then pt - ct else cap cfg r

/-- One line of `COUNTSEQ(r)`: the consumer tail first, then the producer tail. -/
def countLine (r : RingId) (l : Label) (s : State) : Flow :=
  match l with
  | .n1 => .goto .n2 [] (s.updLat fun x => { x with ct := s.tailview r .cons })
  | .n2 => .ret (s.updLat fun x => { x with cntv := countOf s.cfg r (s.tailview r .prod) x.ct })
  | _ => .stop .strayPhase

end Sys2Proof.Machine
end

