-- ==== Sys2Proof/Machine/CheckSequence.lean ====
section
/-! DEFINITION. The check sequence `CHECKSEQ` (spec/42_qsbr_commands.md rule R202), the body of `CHECK`, the tail of `SYNC`
and the test of the reclaim pass; and the reclaim pass `RECLAIMSEQ` (spec/43_defer_queue_commands.md rule R222). -/

namespace Sys2Proof.Machine

/-- The index of the least significant 1 bit (line `V3`). -/
def lowestSet (w : U64) : Nat := ((List.range 64).find? fun j => w.getLsbD j).getD 0

/-- `CHECKSEQ`: the call. -/
def checkCall (s : State) : Flow := .goto .v1 [] s

/-- `fin` of rule R202: with no registered thread seen the check succeeds, else `ACKED_TOKEN` is updated in `V4`. -/
def checkFin (s : State) : Flow :=
  if s.lat.seen then .goto .v4 [] s else .ret (s.updLat fun l => { l with okf := true })

/-- `next` of rule R202: go on with the next bit of this bitmap word, or with the next word. -/
def checkNext (s : State) : Flow :=
  if s.lat.bm = 0#64 then
    let s1 := s.updLat fun l => { l with wi := l.wi + 1#32 }
    if s1.lat.wi.toNat = nwords s.cfg then checkFin s1 else .goto .v2 [] s1
  else .goto .v3 [] s

/-- Line `V1`: the fast path of a token already known complete. -/
def checkFast (s : State) : Flow :=
  if s.lat.t ≤ s.acked then .ret (s.updLat fun l => { l with okf := true })
  else .goto .v2 [] (s.updLat fun l => { l with wi := 0#32, seen := false })

/-- Line `V2`: load one bitmap word. -/
def checkWord (s : State) : Flow :=
  checkNext (s.updLat fun l => { l with bm := s.bitmap.getD l.wi.toNat 0#64 })

/-- The thread line `V3` examines. -/
def Latches.scanned (l : Latches) : Nat := 64 * l.wi.toNat + lowestSet l.bm

/-- Line `V3` for a thread whose counter `c` passes: the least counter so far, the thread's bit cleared. -/
def Latches.passThread (l : Latches) (c : U64) : Latches :=
  { l with
    minc := if !l.seen || decide (c < l.minc) then c else l.minc
    seen := true
    bm := l.bm &&& ~~~(bit64 (lowestSet l.bm)) }

/-- Line `V3`: one counter is examined; a lagging one ends the check or, when waiting, re-loads the word (rule R203). -/
def checkThread (s : State) : Flow :=
  let c := s.cntOf s.lat.scanned
  if c < s.lat.t then
    if s.lat.wt then .goto .v2 [] s else .ret (s.updLat fun l => { l with okf := false })
  else checkNext (s.updLat fun l => l.passThread c)

/-- Line `V4`: `ACKED_TOKEN <- max(ACKED_TOKEN, L.MINC)` (rule R204). -/
def checkAck (s : State) : Flow :=
  .ret ((s.maxAcked s.lat.minc).updLat fun l => { l with okf := true })

/-- One line of `CHECKSEQ`. -/
def checkLine (l : Label) (s : State) : Flow :=
  match l with
  | .v1 => checkFast s
  | .v2 => checkWord s
  | .v3 => checkThread s
  | .v4 => checkAck s
  | _ => .stop .strayPhase

/-! ### RECLAIMSEQ -/

/-- `loop` of rule R222: the limit is reached, or reserve the oldest entry. -/
def reclaimLoop (s : State) : Flow :=
  if s.lat.lim = .num s.lat.freed then .ret (s.updLat fun l => { l with why := .limit })
  else (reserveCall .defer .cons 1#32 .exact s).within .reserve .ret

/-- `RECLAIMSEQ(lim)`: the call, with the part of the sequence that takes no step of its own. -/
def reclaimCall (lim : Limit) (s : State) : Flow :=
  reclaimLoop (s.updLat fun l => { l with lim := lim, freed := 0#32 })

/-- After the reservation: the ring holds no published entry, or read the oldest one. -/
def reclaimReserved (s : State) : Flow :=
  if s.lat.k = 0#32 then .ret (s.updLat fun l => { l with why := .empty }) else .goto .x1 [] s

/-- Line `X1`: read the entry and prepare the non-waiting check of its token. -/
def reclaimRead (s : State) : Flow :=
  Flow.ofExcept (s.memRead .defer (addrOf s.cfg .defer s.lat.oh) (esize s.cfg .defer)) fun e =>
    (checkCall (s.updLat fun l => { l with ent := e, t := entryToken e, wt := false })).within .checkseq .ret

/-- After the check: pop the entry, or cancel the reservation. -/
def reclaimChecked (s : State) : Flow :=
  if s.lat.okf then .goto .x2 [] s else .goto .h5 [.cancel] s

/-- After the cancel: the entry stays the oldest. -/
def reclaimBlocked (s : State) : Flow := .ret (s.updLat fun l => { l with why := .blocked })

/-- Line `X2`: publish (the store of line `H4`) and emit the FREE message in one step, then loop. -/
def reclaimFree (s : State) : Flow :=
  let s1 := s.setA .defer .cons (pack (s.lat.oh + 1#32) (s.lat.oh + 1#32))
  let s2 := s1.emitFree { ctx := s.cfg.dqCtx, element := entryElem s.lat.ent, count := 1#32 }
  reclaimLoop (s2.updLat fun l => { l with freed := l.freed + 1#32 })

/-- One line of `RECLAIMSEQ`, `st` being the return stack inside it. -/
def reclaimLine (l : Label) (st : List Seq) (s : State) : Flow :=
  match st, l with
  | [.reserve], _ => (reserveLine .defer .cons l s).within .reserve reclaimReserved
  | [], .x1 => reclaimRead s
  | [], .x2 => reclaimFree s
  | [.checkseq], _ => (checkLine l s).within .checkseq reclaimChecked
  | [.cancel], _ => (cancelLine .defer .cons l s).within .cancel reclaimBlocked
  | _, _ => .stop .strayPhase

end Sys2Proof.Machine
end

