-- ==== Sys2Proof/Machine/RingCommands.lean ====
section
/-! DEFINITION. The six ring commands (spec/41_ring_commands.md), all acting on ring 0. Each meaning is the acceptance
step of its command and the labelled lines of its sub-sequence; the response is issued in the step that ends it. -/

namespace Sys2Proof.Machine

/-- The answer of an enqueue: `(OK, L.K, 0)`. -/
def enqDone (s : State) : Flow := .ended (s.respond .ok s.lat.k 0#64)

/-- The answer of a dequeue: `(OK, L.K, 0)` with the payload `L.DST[0 .. L.K-1]`. -/
def deqDone (s : State) : Flow := .ended (s.respondWith .ok s.lat.k 0#64 (s.lat.dst.take s.lat.k.toNat))

/-- A ring command that is one `RINGOP` on ring 0. -/
def execRingop (sd : Side) (n : U32) (beh : Beh) (done : State → Flow) (s : State) : Host.Outcome State Fault Refusal :=
  runCommand
    (accept .ring false (decide (n = 0#32)) fun s1 => (ringopCall .fifo sd n beh s1).within .ringop done)
    (fun l st s1 =>
      match st with
      | .ringop :: inner => (ringopLine .fifo sd l inner s1).within .ringop done
      | _ => .stop .strayPhase)
    s

/-- A ring command that is one `COUNTSEQ` on ring 0. -/
def execCount (done : State → Flow) (s : State) : Host.Outcome State Fault Refusal :=
  runCommand
    (accept .ring false false fun s1 => (countCall s1).within .countseq done)
    (fun l st s1 =>
      match st with
      | [.countseq] => (countLine .fifo l s1).within .countseq done
      | _ => .stop .strayPhase)
    s

/-- `ENQ_BULK n` (rule R170). -/
def execEnqBulk (n : U32) (s : State) : Host.Outcome State Fault Refusal := execRingop .prod n .exact enqDone s

/-- `ENQ_BURST n` (rule R171). -/
def execEnqBurst (n : U32) (s : State) : Host.Outcome State Fault Refusal := execRingop .prod n .upTo enqDone s

/-- `DEQ_BULK n` (rule R172). -/
def execDeqBulk (n : U32) (s : State) : Host.Outcome State Fault Refusal := execRingop .cons n .exact deqDone s

/-- `DEQ_BURST n` (rule R173). -/
def execDeqBurst (n : U32) (s : State) : Host.Outcome State Fault Refusal := execRingop .cons n .upTo deqDone s

/-- `RING_COUNT` (rule R174). -/
def execRingCount (s : State) : Host.Outcome State Fault Refusal :=
  execCount (fun s1 => .ended (s1.respond .ok s1.lat.cntv 0#64)) s

/-- `RING_FREE` (rule R175). -/
def execRingFree (s : State) : Host.Outcome State Fault Refusal :=
  execCount (fun s1 => .ended (s1.respond .ok (cap s1.cfg .fifo - s1.lat.cntv) 0#64)) s

end Sys2Proof.Machine
end

