-- ==== Sys2Proof/Machine/QsbrCommands.lean ====
section
/-! DEFINITION. The eight QSBR commands (spec/42_qsbr_commands.md rules R192 to R201). -/

namespace Sys2Proof.Machine

/-- A QSBR command whose operand is a thread id and which has one labelled line, `line`. -/
def execThread (first : Label) (tid : U32) (line : State → Flow) (s : State) : Host.Outcome State Fault Refusal :=
  runCommand
    (fun s1 => accept .qsbr (tidOutOfRange s1.cfg tid) false (fun s2 => .goto first [] s2) s1)
    (fun l st s1 => if l = first ∧ st = [] then line s1 else .stop .strayPhase)
    s

/-- Answer with a status, count 0 and value 0. -/
def answer (st : Status) (s : State) : Flow := .ended (s.respond st 0#32 0#64)

/-- Line `G1` (`QREG`): test for a duplicate, then for a lock count, then register with the current token (rule R192). -/
def regLine (i : Nat) (s : State) : Flow :=
  if s.regd i then answer .eAlready s
  else if s.lockOf i ≠ 0#32 then answer .eLocked s
  else answer .ok (((s.setCnt i s.token).setRegd i).setNumThreads (s.numThreads + 1#32))

/-- `THR_REG tid` (rule R192). -/
def execThrReg (tid : U32) (s : State) : Host.Outcome State Fault Refusal :=
  execThread .g1 tid (regLine tid.toNat) s

/-- Line `U1` (`QUNREG`, rule R193). -/
def unregLine (i : Nat) (s : State) : Flow :=
  if !(s.regd i) then answer .eNotreg s
  else if s.lockOf i ≠ 0#32 then answer .eLocked s
  else answer .ok ((s.clearRegd i).setNumThreads (s.numThreads - 1#32))

/-- `THR_UNREG tid` (rule R193). -/
def execThrUnreg (tid : U32) (s : State) : Host.Outcome State Fault Refusal :=
  execThread .u1 tid (unregLine tid.toNat) s

/-- Line `Q1` (`QPROBE`): the tests of a report, and the token it will record. -/
def quiescentProbe (i : Nat) (s : State) : Flow :=
  let s1 := s.updLat fun l => { l with qt := s.token }
  if !(s.regd i) then answer .eNotreg s1
  else if s.lockOf i ≠ 0#32 then answer .eLocked s1
  else .goto .q2 [] s1

/-- `QUIESCENT tid` (rule R194): two steps, the token is read in one and stored in the next. -/
def execQuiescent (tid : U32) (s : State) : Host.Outcome State Fault Refusal :=
  runCommand
    (fun s1 => accept .qsbr (tidOutOfRange s1.cfg tid) false (fun s2 => .goto .q1 [] s2) s1)
    (fun l st s1 =>
      match l, st with
      | .q1, [] => quiescentProbe tid.toNat s1
      | .q2, [] => answer .ok (s1.setCnt tid.toNat s1.lat.qt)
      | _, _ => .stop .strayPhase)
    s

/-- `START` (rule R195). -/
def execStart (s : State) : Host.Outcome State Fault Refusal :=
  runCommand
    (accept .qsbr false false fun s1 => .goto .a1 [] s1)
    (fun l st s1 =>
      match l, st with
      | .a1, [] => tkinc s1 fun s2 => .ended (s2.respond .ok 0#32 s2.lat.tok)
      | _, _ => .stop .strayPhase)
    s

/-- A truth value as the `VALUE` of a response. -/
def boolValue (b : Bool) : U64 := if b then 1#64 else 0#64

/-- The answer of `CHECK`: 1 for success, 0 for "not yet". -/
def checkDone (s : State) : Flow := .ended (s.respond .ok 0#32 (boolValue s.lat.okf))

/-- `CHECK T [, wait]` (rule R196). -/
def execCheck (t : U64) (wait : Bool) (s : State) : Host.Outcome State Fault Refusal :=
  runCommand
    (accept .qsbr false false fun s1 =>
      (checkCall (s1.updLat fun l => { l with t := t, wt := wait })).within .checkseq checkDone)
    (fun l st s1 =>
      match st with
      | [.checkseq] => (checkLine l s1).within .checkseq checkDone
      | _ => .stop .strayPhase)
    s

/-- The answer of `SYNC`: the token it issued. -/
def syncDone (s : State) : Flow := .ended (s.respond .ok 0#32 s.lat.tok)

/-- `SYNC` enters its waiting check. -/
def syncCheck (s : State) : Flow :=
  (checkCall (s.updLat fun l => { l with t := l.tok, wt := true })).within .checkseq syncDone

/-- Line `Y1` (`SYNCBEGIN`): is the caller a reader; a reader inside its own critical section is refused before any token
is issued; else issue a token. A caller that is no reader goes to the check at once. -/
def syncBegin (tid : U32) (s : State) : Flow :=
  let rdr := decide (tid < s.cfg.maxThreads) && s.regd tid.toNat
  let s1 := s.updLat fun l => { l with rdr := rdr }
  if rdr && decide (s.lockOf tid.toNat ≠ 0#32) then answer .eLocked s1
  else tkinc s1 fun s2 => if s2.lat.rdr then .goto .y2 [] s2 else syncCheck s2

/-- `SYNC tid` (rule R197); a thread id out of range is no error. -/
def execSync (tid : U32) (s : State) : Host.Outcome State Fault Refusal :=
  runCommand
    (accept .qsbr false false fun s1 => .goto .y1 [] s1)
    (fun l st s1 =>
      match l, st with
      | .y1, [] => syncBegin tid s1
      | .y2, [] => .goto .y3 [] (s1.updLat fun x => { x with qt := s1.token })
      | .y3, [] => syncCheck (s1.setCnt tid.toNat s1.lat.qt)
      | _, [.checkseq] => (checkLine l s1).within .checkseq syncDone
      | _, _ => .stop .strayPhase)
    s

/-- Line `L1` (`LOCKINC`, rule R200). -/
def lockLine (i : Nat) (s : State) : Flow :=
  if s.lockOf i = 0xFFFFFFFF#32 then answer .eLockrange s
  else answer .ok (s.setLock i (s.lockOf i + 1#32))

/-- `RD_LOCK tid` (rule R200). -/
def execRdLock (tid : U32) (s : State) : Host.Outcome State Fault Refusal :=
  execThread .l1 tid (lockLine tid.toNat) s

/-- Line `L2` (`LOCKDEC`, rule R201). -/
def unlockLine (i : Nat) (s : State) : Flow :=
  if s.lockOf i = 0#32 then answer .eLockrange s
  else answer .ok (s.setLock i (s.lockOf i - 1#32))

/-- `RD_UNLOCK tid` (rule R201). -/
def execRdUnlock (tid : U32) (s : State) : Host.Outcome State Fault Refusal :=
  execThread .l2 tid (unlockLine tid.toNat) s

end Sys2Proof.Machine
end

