-- ==== Sys2Proof/Machine/DeferQueueCommands.lean ====
section
/-! DEFINITION. The three defer-queue commands (spec/43_defer_queue_commands.md rules R223 to R226). -/

namespace Sys2Proof.Machine

/-- The liveness test of rule R223, made in the first step of every defer-queue command. -/
def ifAlive (s : State) (k : State → Flow) : Flow := if s.dqAlive then k s else answer .eNodq s

/-- The answer of `DQ_ENQ`: `(OK, L.KQ, L.TOK)`. -/
def dqEnqDone (s : State) : Flow := .ended (s.respond .ok (if s.lat.kq then 1#32 else 0#32) s.lat.tok)

/-- Line `D1` (`DQBEGIN`): issue a token, build the entry (rule R221) and push it on ring 1. -/
def dqEnqBegin (s : State) : Flow :=
  ifAlive s fun s1 => tkinc s1 fun s2 =>
    let s3 := s2.updLat fun l =>
      { l with src := Payload.ofBytes (entryBytes l.tok (l.src.elem s2.cfg.dqEsize.toNat 0)) }
    (ringopCall .defer .prod 1#32 .exact s3).within .ringop dqEnqDone

/-- After the push: `L.KQ <- L.K`, then count ring 1. -/
def dqEnqPushed (s : State) : Flow :=
  (countCall (s.updLat fun l => { l with kq := decide (l.k ≠ 0#32) })).within .countseq dqEnqDone

/-- After the count: reclaim inline if the queue has grown past `TRIGGER_LIMIT` (rule R224). -/
def dqEnqCounted (s : State) : Flow :=
  if s.cfg.triggerLimit < s.lat.cntv then
    (reclaimCall (.num s.cfg.maxReclaim) s).within .reclaimseq dqEnqDone
  else dqEnqDone s

/-- `DQ_ENQ [elem]` (rule R224). -/
def execDqEnq (s : State) : Host.Outcome State Fault Refusal :=
  runCommand
    (accept .deferQueue false false fun s1 => .goto .d1 [] s1)
    (fun l st s1 =>
      match l, st with
      | .d1, [] => dqEnqBegin s1
      | _, .ringop :: inner => (ringopLine .defer .prod l inner s1).within .ringop dqEnqPushed
      | _, [.countseq] => (countLine .defer l s1).within .countseq dqEnqCounted
      | _, .reclaimseq :: inner => (reclaimLine l inner s1).within .reclaimseq dqEnqDone
      | _, _ => .stop .strayPhase)
    s

/-- The answer of `DQ_RECLAIM`: `(OK, L.FREED, 0)`. -/
def dqReclaimDone (s : State) : Flow := .ended (s.respond .ok s.lat.freed 0#64)

/-- `DQ_RECLAIM n` (rule R225). -/
def execDqReclaim (n : U32) (s : State) : Host.Outcome State Fault Refusal :=
  runCommand
    (accept .deferQueue false false fun s1 => .goto .r1 [] s1)
    (fun l st s1 =>
      match l, st with
      | .r1, [] => ifAlive s1 fun s2 => (reclaimCall (.num n) s2).within .reclaimseq dqReclaimDone
      | _, .reclaimseq :: inner => (reclaimLine l inner s1).within .reclaimseq dqReclaimDone
      | _, _ => .stop .strayPhase)
    s

/-- After the pass of `DQ_DELETE`: a blocked queue lives on, else kill it in line `Z1`. -/
def dqDeletePassed (s : State) : Flow :=
  if s.lat.why = .blocked then .ended (s.respond .ePending s.lat.freed 0#64) else .goto .z1 [] s

/-- `DQ_DELETE` (rule R226). -/
def execDqDelete (s : State) : Host.Outcome State Fault Refusal :=
  runCommand
    (accept .deferQueue false false fun s1 => .goto .z0 [] s1)
    (fun l st s1 =>
      match l, st with
      | .z0, [] => ifAlive s1 fun s2 => (reclaimCall .inf s2).within .reclaimseq dqDeletePassed
      | .z1, [] => .ended (s1.killDq.respond .ok s1.lat.freed 0#64)
      | _, .reclaimseq :: inner => (reclaimLine l inner s1).within .reclaimseq dqDeletePassed
      | _, _ => .stop .strayPhase)
    s

end Sys2Proof.Machine
end

