-- ==== Sys2Proof/Machine/SystemCommands.lean ====
section
/-! DEFINITION. The one system command, `CSR_RD` (spec/44_system_commands.md rule R240). -/

namespace Sys2Proof.Machine

/-- `CSR_RD REG [, IDX]` (rule R240): the pair is checked at acceptance (spec/30 rule R98), read in one step. -/
def execCsrRd (reg : U32) (idx : U64) (s : State) : Host.Outcome State Fault Refusal :=
  runCommand
    (fun s1 => accept .system (s1.csr reg idx).isNone false (fun s2 => .goto .c1 [] s2) s1)
    (fun l st s1 =>
      match l, st, s1.csr reg idx with
      | .c1, [], some v => .ended (s1.respond .ok 0#32 v)
      | _, _, _ => .stop .strayPhase)
    s

end Sys2Proof.Machine
end

