-- ==== Sys2Proof/Machine/Dispatch.lean ====
section
/-! DEFINITION. One step of the granted port on a command: one arm per command, each one call of its meaning. -/

namespace Sys2Proof.Machine

/-- The step the port `s.cur` takes on the command `i`. -/
def exec (i : Instr) (s : State) : Host.Outcome State Fault Refusal :=
  match i with
  | .enqBulk n => Sys2Proof.Machine.execEnqBulk n s
  | .enqBurst n => Sys2Proof.Machine.execEnqBurst n s
  | .deqBulk n => Sys2Proof.Machine.execDeqBulk n s
  | .deqBurst n => Sys2Proof.Machine.execDeqBurst n s
  | .ringCount => Sys2Proof.Machine.execRingCount s
  | .ringFree => Sys2Proof.Machine.execRingFree s
  | .thrReg tid => Sys2Proof.Machine.execThrReg tid s
  | .thrUnreg tid => Sys2Proof.Machine.execThrUnreg tid s
  | .quiescent tid => Sys2Proof.Machine.execQuiescent tid s
  | .start => Sys2Proof.Machine.execStart s
  | .check t wait => Sys2Proof.Machine.execCheck t wait s
  | .sync tid => Sys2Proof.Machine.execSync tid s
  | .rdLock tid => Sys2Proof.Machine.execRdLock tid s
  | .rdUnlock tid => Sys2Proof.Machine.execRdUnlock tid s
  | .dqEnq => Sys2Proof.Machine.execDqEnq s
  | .dqReclaim n => Sys2Proof.Machine.execDqReclaim n s
  | .dqDelete => Sys2Proof.Machine.execDqDelete s
  | .csrRd reg idx => Sys2Proof.Machine.execCsrRd reg idx s

end Sys2Proof.Machine
end

