-- ==== Sys2Proof/Machine/Arbiter.lean ====
section
/-! DEFINITION. The arbiter's grant (spec/20_memory.md rule R67), the host's actions (spec/60_exceptions.md rule R262) and
reset (spec/70_reset_and_hazards.md rule R280): what one event does to the state. -/

namespace Sys2Proof.Machine

/-- The command a busy port executes: the one its latch `CMD` holds (rule R74). -/
def Port.command (q : Port) : Option Instr :=
  match decodeWord q.lat.cmd with
  | .ok i => some i
  | .error _ => none

/-- Port `p`, which exists and is `q`, takes its next step, if it is ready (spec/30 rule R92: an idle port is ready when
a command waits). -/
def grantTo (p : Nat) (q : Port) (s : State) : Host.Outcome State Fault Refusal :=
  match q.phase, q.cmdch with
  | .busy _ _, _ =>
    match q.command with
    | some i => exec i { s with cur := p }
    | none => .fault .lostCommand
  | .idle, m :: _ =>
    match decodeMessage s.cfg m with
    | .ok i => exec i { s with cur := p }
    | .error _ => .next (State.acceptIllegal { s with cur := p })
  | .idle, [] => .next s

/-- What an event does; an event that names no port, or takes from an empty channel, does nothing (log entry 11). -/
def stepEvent (e : Option Event) (s : State) : Host.Outcome State Fault Refusal :=
  match e with
  | none => .next s
  | some (.grant p) =>
    match s.ports[p]? with
    | some q => grantTo p q s
    | none => .next s
  | some (.send p m) => .next (s.updPortAt p fun q => { q with cmdch := q.cmdch ++ [m] })
  | some (.takeRsp p) => .next (s.updPortAt p fun q => { q with rspch := q.rspch.tail })
  | some .takeFree => .next { s with freech := s.freech.tail }
  | some (.reset cfg) => .next { State.resetWith cfg with sched := s.sched, tick := s.tick }

/-- The next event and the state from which it has been taken: the first of the events that the state lists, or a free
value (log entry 2). -/
def nextEvent (s : State) : Option Event × State :=
  match s.sched with
  | e :: es => (some e, { s with sched := es })
  | [] => (Config.freeEvent s.tick, { s with tick := s.tick + 1 })

/-- The message that holds the command whose `nbits` low bits are those of `w`, with a payload of zeros of the size the
command asks for. -/
def tableMessage (cfg : Params) (nbits w : Nat) : Message :=
  let cw := BitVec.ofNat 128 (w % 2 ^ nbits)
  { word := cw, payload := { size := payloadBytesOf cfg cw, bytes := [] } }

/-- Port 0 idle with that message first on its command channel, and granted next. -/
def State.placeCommand (s : State) (m : Message) : State :=
  { s.updPortAt 0 fun q => { q with phase := .idle, cmdch := m :: q.cmdch } with sched := .grant 0 :: s.sched }

end Sys2Proof.Machine
end

