-- ==== Sys2Proof/Machine/Step.lean ====
section
/-! DEFINITION. One step of the block: the next event happens (spec/00_scope.md rule R12: one step of one port, or one
host action). -/

namespace Sys2Proof.Machine

/-- One step of the machine. -/
def step (s : State) : Host.Outcome State Fault Refusal :=
  stepEvent (nextEvent s).1 (nextEvent s).2

/-- The host's entry point: `s` with the command of those bits waiting on port 0 and port 0 granted next, so that the
next step accepts it (log entry 12). -/
def State.withFetchWord (s : State) (nbits w : Nat) : State := s.placeCommand (tableMessage s.cfg nbits w)

end Sys2Proof.Machine
end

