-- ==== Sys2Proof/Safety.lean ====
section
/-! DEFINITION. The terms the statements about the machine are written in: where a port stands in its command, what one
step leaves as it is, a port running alone, which lines a command has, and the invariants of the block. Nothing here is
used by the machine. -/

namespace Sys2Proof.Machine

/-! ### Where the granted port stands -/

/-- The granted port exists. -/
abbrev State.granted (s : State) : Prop := s.cur < s.ports.length

/-- The granted port's next step is the labelled line `l`, with that return stack. -/
abbrev State.atLine (s : State) (l : Label) (st : List Seq) : Prop := s.granted ∧ s.phase = .busy l st

/-- The granted port is idle and `m` is the oldest message of its command channel. -/
abbrev State.waiting (s : State) (m : Message) (rest : List Message) : Prop :=
  s.granted ∧ s.phase = .idle ∧ s.port.cmdch = m :: rest

/-! ### What a step leaves as it is -/

/-- Both rings are unchanged: control words, owner registers and every byte of storage. -/
abbrev SameRings (s t : State) : Prop := t.fifo = s.fifo ∧ t.defer = s.defer

/-- `TOKEN` and `ACKED_TOKEN` are unchanged. -/
abbrev SameTokens (s t : State) : Prop := t.token = s.token ∧ t.acked = s.acked

/-- The bitmap, `NUM_THREADS`, the counters and the lock counts are unchanged. -/
abbrev SameThreads (s t : State) : Prop :=
  t.bitmap = s.bitmap ∧ t.numThreads = s.numThreads ∧ t.cnt = s.cnt ∧ t.lockcnt = s.lockcnt

/-- `STATUS` and `FAULT` are unchanged. -/
abbrev SameFlags (s t : State) : Prop := t.status = s.status ∧ t.fault = s.fault

/-- All shared state and `FREECH` are unchanged. -/
abbrev SameShared (s t : State) : Prop :=
  SameRings s t ∧ SameTokens s t ∧ SameThreads s t ∧ SameFlags s t ∧ t.freech = s.freech

/-- Of the ports only the granted one may differ, and the model's own fields are unchanged. -/
abbrev OnlyOwnPort (s t : State) : Prop :=
  t.cfg = s.cfg ∧ t.cur = s.cur ∧ t.sched = s.sched ∧ t.tick = s.tick ∧ t.ports.length = s.ports.length ∧
    ∀ p, p ≠ s.cur → t.ports[p]? = s.ports[p]?

/-- The granted port has answered: it is idle and exactly that response is new on its channel. -/
abbrev Answered (s t : State) (st : Status) (cnt : U32) (val : U64) (pl : List Element) : Prop :=
  t.phase = .idle ∧ t.port.cmdch = s.port.cmdch ∧
    t.port.rspch = s.port.rspch ++ [{ word := responseWord st cnt val, payload := pl }]

/-- The granted port goes on with its command: only its phase and its latches may differ. -/
abbrev Continues (s t : State) (l : Label) (st : List Seq) : Prop :=
  t.phase = .busy l st ∧ t.port.cmdch = s.port.cmdch ∧ t.port.rspch = s.port.rspch

/-- Side `(r, sd)` alone may differ in its control words; storage and every other side are unchanged. -/
abbrev OnlySide (s t : State) (r : RingId) (sd : Side) : Prop :=
  (∀ r', (t.ring r').mem = (s.ring r').mem) ∧ ∀ r' sd', (r' ≠ r ∨ sd' ≠ sd) → t.side r' sd' = s.side r' sd'

/-- All shared state outside the rings, and `FREECH`, are unchanged. -/
abbrev SameOutsideRings (s t : State) : Prop :=
  SameTokens s t ∧ SameThreads s t ∧ SameFlags s t ∧ t.freech = s.freech

/-! ### A port running alone -/

/-- The arbiter grants port `p` the next `k` steps and nothing else happens. -/
def State.grants (s : State) (p k : Nat) : State := { s with sched := List.replicate k (.grant p) }

/-- `k` steps of port `p` alone. -/
def runAlone (p k : Nat) (s : State) : Host.Outcome State Fault Refusal := Sys2Proof.core.run k (s.grants p k)

/-! ### The commands and their lines -/

/-- The unit of a command (spec/30 rule R94). -/
def unitOf : Instr → CmdUnit
  | .enqBulk _ => .ring
  | .enqBurst _ => .ring
  | .deqBulk _ => .ring
  | .deqBurst _ => .ring
  | .ringCount => .ring
  | .ringFree => .ring
  | .thrReg _ => .qsbr
  | .thrUnreg _ => .qsbr
  | .quiescent _ => .qsbr
  | .start => .qsbr
  | .check _ _ => .qsbr
  | .sync _ => .qsbr
  | .rdLock _ => .qsbr
  | .rdUnlock _ => .qsbr
  | .dqEnq => .deferQueue
  | .dqReclaim _ => .deferQueue
  | .dqDelete => .deferQueue
  | .csrRd _ _ => .system

/-- `operand_error(d)` (spec/30 rule R98). -/
def operandErrorOf (s : State) : Instr → Bool
  | .thrReg tid => decide (s.cfg.maxThreads ≤ tid)
  | .thrUnreg tid => decide (s.cfg.maxThreads ≤ tid)
  | .quiescent tid => decide (s.cfg.maxThreads ≤ tid)
  | .rdLock tid => decide (s.cfg.maxThreads ≤ tid)
  | .rdUnlock tid => decide (s.cfg.maxThreads ≤ tid)
  | .csrRd reg idx => (s.csr reg idx).isNone
  | .enqBulk _ => false
  | .enqBurst _ => false
  | .deqBulk _ => false
  | .deqBurst _ => false
  | .ringCount => false
  | .ringFree => false
  | .start => false
  | .check _ _ => false
  | .sync _ => false
  | .dqEnq => false
  | .dqReclaim _ => false
  | .dqDelete => false

/-- A ring command that is one `RINGOP` on ring 0: its side, its count and its behaviour (spec/41 rules R170 to R173). -/
def ringRequest : Instr → Option (Side × U32 × Beh)
  | .enqBulk n => some (.prod, n, .exact)
  | .enqBurst n => some (.prod, n, .upTo)
  | .deqBulk n => some (.cons, n, .exact)
  | .deqBurst n => some (.cons, n, .upTo)
  | .ringCount => none
  | .ringFree => none
  | .thrReg _ => none
  | .thrUnreg _ => none
  | .quiescent _ => none
  | .start => none
  | .check _ _ => none
  | .sync _ => none
  | .rdLock _ => none
  | .rdUnlock _ => none
  | .dqEnq => none
  | .dqReclaim _ => none
  | .dqDelete => none
  | .csrRd _ _ => none

/-- The ring and the side that a command's `RINGOP` works on; `DQ_ENQ` pushes on ring 1 (spec/43 rule R224). -/
def ringopUse (i : Instr) : Option (RingId × Side) :=
  match i with
  | .dqEnq => some (.defer, .prod)
  | _ => (ringRequest i).map fun x => (.fifo, x.1)

/-- A ring command asked for no element (spec/30 rule R92). -/
def zeroCountOf (i : Instr) : Bool :=
  match ringRequest i with
  | some (_, n, _) => decide (n = 0#32)
  | none => false

/-- The first labelled line of a command and its return stack (spec/41 to spec/44). -/
def firstLine (cfg : Params) : Instr → Label × List Seq
  | .enqBulk _ => (reserveFirst cfg.psync0, [.ringop, .reserve])
  | .enqBurst _ => (reserveFirst cfg.psync0, [.ringop, .reserve])
  | .deqBulk _ => (reserveFirst cfg.csync0, [.ringop, .reserve])
  | .deqBurst _ => (reserveFirst cfg.csync0, [.ringop, .reserve])
  | .ringCount => (.n1, [.countseq])
  | .ringFree => (.n1, [.countseq])
  | .thrReg _ => (.g1, [])
  | .thrUnreg _ => (.u1, [])
  | .quiescent _ => (.q1, [])
  | .start => (.a1, [])
  | .check _ _ => (.v1, [.checkseq])
  | .sync _ => (.y1, [])
  | .rdLock _ => (.l1, [])
  | .rdUnlock _ => (.l2, [])
  | .dqEnq => (.d1, [])
  | .dqReclaim _ => (.r1, [])
  | .dqDelete => (.z0, [])
  | .csrRd _ _ => (.c1, [])

/-- The labels of `RESERVE` under a discipline (spec/40 rules R125 to R128). -/
def reserveLabels : Sync → List Label
  | .st => [.s1, .s2, .s3]
  | .mt => [.m1, .m2, .m3]
  | .hts => [.h1, .h2, .h3]
  | .rts => [.t1, .t2, .t3, .t4]

/-- The labels of `PUBLISH` under a discipline (spec/40 rules R133 to R136). -/
def publishLabels : Sync → List Label
  | .st => [.s4]
  | .mt => [.m4, .m5]
  | .hts => [.h4]
  | .rts => [.t5, .t6, .t7]

/-- The lines of `RINGOP` on a side, by the return stack inside it. -/
def ringopLegal (cfg : Params) (r : RingId) (sd : Side) (l : Label) (st : List Seq) : Bool :=
  match st with
  | [.reserve] => decide (l ∈ reserveLabels (syncOf cfg r sd))
  | [.copy] => decide (l = .cp)
  | [.publish] => decide (l ∈ publishLabels (syncOf cfg r sd))
  | _ => false

/-- The lines of `COUNTSEQ`. -/
def countLegal (l : Label) : Bool := decide (l ∈ [Label.n1, .n2])

/-- The lines of `CHECKSEQ`. -/
def checkLegal (l : Label) : Bool := decide (l ∈ [Label.v1, .v2, .v3, .v4])

/-- The lines of `RECLAIMSEQ`, by the return stack inside it. -/
def reclaimLegal (l : Label) (st : List Seq) : Bool :=
  match st with
  | [] => decide (l ∈ [Label.x1, .x2])
  | [.reserve] => decide (l ∈ [Label.h1, .h2, .h3])
  | [.checkseq] => checkLegal l
  | [.cancel] => decide (l = .h5)
  | _ => false

/-- The lines of a command: the phases a port that executes it can be in. -/
def lineLegal (cfg : Params) (i : Instr) (l : Label) (st : List Seq) : Bool :=
  match i, st with
  | .enqBulk _, .ringop :: inner => ringopLegal cfg .fifo .prod l inner
  | .enqBurst _, .ringop :: inner => ringopLegal cfg .fifo .prod l inner
  | .deqBulk _, .ringop :: inner => ringopLegal cfg .fifo .cons l inner
  | .deqBurst _, .ringop :: inner => ringopLegal cfg .fifo .cons l inner
  | .ringCount, [.countseq] => countLegal l
  | .ringFree, [.countseq] => countLegal l
  | .thrReg _, [] => decide (l = .g1)
  | .thrUnreg _, [] => decide (l = .u1)
  | .quiescent _, [] => decide (l ∈ [Label.q1, .q2])
  | .start, [] => decide (l = .a1)
  | .check _ _, [.checkseq] => checkLegal l
  | .sync _, [] => decide (l ∈ [Label.y1, .y2, .y3])
  | .sync _, [.checkseq] => checkLegal l
  | .rdLock _, [] => decide (l = .l1)
  | .rdUnlock _, [] => decide (l = .l2)
  | .dqEnq, [] => decide (l = .d1)
  | .dqEnq, .ringop :: inner => ringopLegal cfg .defer .prod l inner
  | .dqEnq, [.countseq] => countLegal l
  | .dqEnq, .reclaimseq :: inner => reclaimLegal l inner
  | .dqReclaim _, [] => decide (l = .r1)
  | .dqReclaim _, .reclaimseq :: inner => reclaimLegal l inner
  | .dqDelete, [] => decide (l ∈ [Label.z0, .z1])
  | .dqDelete, .reclaimseq :: inner => reclaimLegal l inner
  | .csrRd _ _, [] => decide (l = .c1)
  | _, _ => false

/-! ### What follows when a sub-sequence returns to its command -/

/-- A `RINGOP` of the command `i` has ended with the latches `l`: a ring command answers `(OK, L.K, 0)`, a dequeue with the
`L.K` elements read (spec/41 rules R170 to R173); `DQ_ENQ` records whether it queued and counts ring 1 (spec/43 rule R224). -/
def AfterRingop (i : Instr) (s t : State) (l : Latches) : Prop :=
  match ringopUse i with
  | some (.fifo, .prod) => Answered s t .ok l.k 0#64 [] ∧ t.lat = l
  | some (.fifo, .cons) => Answered s t .ok l.k 0#64 (l.dst.take l.k.toNat) ∧ t.lat = l
  | some (.defer, .prod) => Continues s t .n1 [.countseq] ∧ t.lat = { l with kq := decide (l.k ≠ 0#32) }
  | some (.defer, .cons) => False
  | none => False

/-- The commands that run `CHECKSEQ` and the return stack they run it under (spec/42 rule R202). -/
def checkUse : Instr → Option (List Seq)
  | .check _ _ => some [.checkseq]
  | .sync _ => some [.checkseq]
  | .dqEnq => some [.reclaimseq, .checkseq]
  | .dqReclaim _ => some [.reclaimseq, .checkseq]
  | .dqDelete => some [.reclaimseq, .checkseq]
  | _ => none

/-- A `CHECKSEQ` of the command `i` has ended with the latches `l`: `CHECK` answers its truth value (spec/42 rule R196),
`SYNC` the token it issued (rule R197), a reclaim pass pops the entry or gives the reservation back (spec/43 rule R222). -/
def AfterCheck (i : Instr) (s t : State) (l : Latches) : Prop :=
  t.lat = l ∧
    match i with
    | .check _ _ => Answered s t .ok 0#32 (if l.okf then 1#64 else 0#64) []
    | .sync _ => Answered s t .ok 0#32 l.tok []
    | _ => if l.okf then Continues s t .x2 [.reclaimseq] else Continues s t .h5 [.reclaimseq, .cancel]

/-- The check sequence of the command `i` is at `next` with the latches `l`: on to the next bit of the bitmap word, to the
next word, or to the end (spec/42 rule R202). -/
def AtCheckNext (i : Instr) (st : List Seq) (s t : State) (l : Latches) : Prop :=
  if l.bm ≠ 0#64 then t.lat = l ∧ Continues s t .v3 st
  else if (l.wi + 1#32).toNat ≠ nwords s.cfg then t.lat = { l with wi := l.wi + 1#32 } ∧ Continues s t .v2 st
  else if l.seen = true then t.lat = { l with wi := l.wi + 1#32 } ∧ Continues s t .v4 st
  else AfterCheck i s t { l with wi := l.wi + 1#32, okf := true }

/-- The commands that run a reclaim pass (spec/43 rules R224 to R226). -/
def reclaims : Instr → Bool
  | .dqEnq => true
  | .dqReclaim _ => true
  | .dqDelete => true
  | _ => false

/-- A reclaim pass of the command `i` has ended with the latches `l` (spec/43 rules R224 to R226). -/
def AfterReclaim (i : Instr) (s t : State) (l : Latches) : Prop :=
  t.lat = l ∧
    match i with
    | .dqEnq => Answered s t .ok (if l.kq then 1#32 else 0#32) l.tok []
    | .dqReclaim _ => Answered s t .ok l.freed 0#64 []
    | .dqDelete => if l.why = .blocked then Answered s t .ePending l.freed 0#64 [] else Continues s t .z1 []
    | _ => False

/-- A reclaim pass of the command `i` is at `loop` with the latches `l`: the limit is reached, or it reserves the oldest
entry (spec/43 rule R222). -/
def AtReclaimLoop (i : Instr) (s t : State) (l : Latches) : Prop :=
  if l.lim = .num l.freed then AfterReclaim i s t { l with why := .limit }
  else t.lat = { l with n := 1#32, beh := .exact } ∧ Continues s t .h1 [.reclaimseq, .reserve]

/-- Thread id `i` has a counter, a lock count and a bitmap bit (spec/10 rules R29, R31, R32). -/
abbrev State.hasThread (s : State) (i : Nat) : Prop :=
  i < s.cnt.length ∧ i < s.lockcnt.length ∧ i < 64 * s.bitmap.length

/-! ### Whole operations on a side (spec/40 rules R138, R139) -/

/-- The words of a side with nothing open, at head `h` and, under `RTS`, counter `c` (rule R139, Idle). -/
def idleSide : Sync → U32 → U32 → SideRegs
  | .st, h, _ => { a := pack h 0#32, b := pack h 0#32, sown := Owner.free }
  | .mt, h, _ => { a := pack h 0#32, b := pack h 0#32, sown := Owner.free }
  | .hts, h, _ => { a := pack h h, b := 0#64, sown := Owner.free }
  | .rts, h, c => { a := pack h c, b := pack h c, sown := Owner.free }

/-- The steps of a `RINGOP` whose reservation succeeds first time (rule R138). -/
def ringopSteps : Sync → Nat
  | .st => 5
  | .mt => 6
  | .hts => 5
  | .rts => 8

/-- The steps of a `RINGOP` that finds nothing to reserve (rules R125 to R128). -/
def emptySteps : Sync → Nat
  | .st => 2
  | .mt => 2
  | .hts => 2
  | .rts => 3

/-! ### Invariants -/

/-- A busy port executes a command that passed acceptance, and its phase is one of that command's lines. -/
def portSound (s : State) (q : Port) : Bool :=
  match q.phase with
  | .idle => true
  | .busy l st =>
    match q.command with
    | some i => s.unitOk (unitOf i) && !(operandErrorOf s i) && lineLegal s.cfg i l st
    | none => false

/-- Every listed address of a ring's storage exists (spec/10 rule R26). -/
abbrev Memory.within (m : Memory) (size : Nat) : Prop := ∀ c ∈ m, c.1 < size

/-- The shape of the state (spec/10 rules R20 to R41): as many ports, bitmap words and counters as the configuration says,
storage in canonical form and within its size, the `*_OK` bits of `STATUS` as the validity predicates say, and every port
sound. -/
abbrev State.Sound (s : State) : Prop :=
  s.ports.length = s.cfg.nports ∧
  s.bitmap.length = nwords s.cfg ∧
  s.cnt.length = s.cfg.maxThreads.toNat ∧
  s.lockcnt.length = s.cfg.maxThreads.toNat ∧
  (∀ r ∈ [RingId.fifo, .defer], (s.ring r).mem.wf = true ∧ (s.ring r).mem.within (memSize s.cfg r)) ∧
  s.status &&& 7#64 = resetStatus s.cfg &&& 7#64 ∧
  ∀ q ∈ s.ports, portSound s q = true

/-- The token a port is about to store or has taken as a minimum was once current (spec/42 rules R194, R197, R204). -/
def portTokens (s : State) (q : Port) : Bool :=
  match q.phase with
  | .busy .q2 _ => decide (q.lat.qt ≤ s.token)
  | .busy .y3 _ => decide (q.lat.qt ≤ s.token)
  | .busy .v2 _ => !q.lat.seen || decide (q.lat.minc ≤ s.token)
  | .busy .v3 _ => !q.lat.seen || decide (q.lat.minc ≤ s.token)
  | .busy .v4 _ => decide (q.lat.minc ≤ s.token)
  | _ => true

/-- `ACKED_TOKEN` and every counter are at most `TOKEN` (spec/10 rules R28, R31). -/
abbrev State.TokensOrdered (s : State) : Prop :=
  s.acked ≤ s.token ∧ (∀ v ∈ s.cnt, v ≤ s.token) ∧ ∀ q ∈ s.ports, portTokens s q = true

/-- The number of registered threads: the set bits of `BITMAP` (spec/10 rule R30). -/
def State.registered (s : State) : Nat := (List.range (64 * s.bitmap.length)).countP s.regd

/-- `NUM_THREADS` is the population count of `BITMAP`, and only thread ids below `MAX_THREADS` are registered (spec/10
rules R29, R30). -/
abbrev State.RegistryOk (s : State) : Prop :=
  s.numThreads = BitVec.ofNat 32 s.registered ∧
    ∀ i ∈ List.range (64 * s.bitmap.length), s.regd i = true → i < s.cfg.maxThreads.toNat

/-- The unused parts of a side's words are 0 (spec/10 rules R21, R25). -/
def sideReserved (cfg : Params) (r : RingId) (sd : Side) (w : SideRegs) : Bool :=
  match syncOf cfg r sd with
  | .st => decide (hiOf w.a = 0#32) && decide (hiOf w.b = 0#32) && (w.sown.valid || decide (w.sown = Owner.free))
  | .mt => decide (hiOf w.a = 0#32) && decide (hiOf w.b = 0#32) && decide (w.sown = Owner.free)
  | .hts => decide (w.b = 0#64) && decide (w.sown = Owner.free)
  | .rts => decide (w.sown = Owner.free)

/-- The reserved bits of the control words, of `STATUS` and of `FAULT` read as 0 (spec/10 rules R21, R25, R33, R34). -/
abbrev State.ReservedZero (s : State) : Prop :=
  (∀ r ∈ [RingId.fifo, .defer], ∀ sd ∈ [Side.prod, .cons], sideReserved s.cfg r sd (s.side r sd) = true) ∧
    s.status &&& ~~~(15#64) = 0#64 ∧ s.fault &&& ~~~(7#64) = 0#64

/-- The port has an open reservation on side `(r, sd)`: it is past the reserving step and before the publishing or
cancelling one (spec/40 rule R123). -/
def Port.holds (q : Port) (r : RingId) (sd : Side) : Bool :=
  match q.phase, q.command with
  | .busy _ [.ringop, .copy], some i => decide (ringopUse i = some (r, sd))
  | .busy _ [.ringop, .publish], some i => decide (ringopUse i = some (r, sd))
  | .busy _ [.reclaimseq], some _ => decide ((r, sd) = (RingId.defer, Side.cons))
  | .busy _ [.reclaimseq, .checkseq], some _ => decide ((r, sd) = (RingId.defer, Side.cons))
  | .busy _ [.reclaimseq, .cancel], some _ => decide ((r, sd) = (RingId.defer, Side.cons))
  | _, _ => false

/-- The port owns the single-agent side `(r, sd)`: it is past `S1` and has not given the side back (spec/40 rule R126). -/
def Port.inside (q : Port) (r : RingId) (sd : Side) : Bool :=
  match q.phase, q.command with
  | .busy l [.ringop, .reserve], some i => decide (l ≠ .s1) && decide (ringopUse i = some (r, sd))
  | _, _ => q.holds r sd

/-- Under `HTS` at most one reservation is open on a side, by the one port whose range is from the tail to the head, and
the word is closed when there is none (spec/10 rule R24, spec/40 rules R127, R141). -/
def State.HtsExclusive (s : State) (r : RingId) (sd : Side) : Prop :=
  (∀ (p : Nat) (q : Port), s.ports[p]? = some q → q.holds r sd = true →
    s.headw r sd ≠ s.tailview r sd ∧ q.lat.oh = s.tailview r sd ∧ q.lat.oh + q.lat.k = s.headw r sd ∧
      ∀ (p' : Nat) (q' : Port), s.ports[p']? = some q' → q'.holds r sd = true → p' = p) ∧
  (s.headw r sd ≠ s.tailview r sd → ∃ q ∈ s.ports, q.holds r sd = true)

/-- Under `ST` the side is owned exactly while one port is inside an operation on it, and the owner register names that
port (spec/10 rule R25); a port gets to `S3` only with something to reserve (spec/40 rule R126). -/
def State.StOwned (s : State) (r : RingId) (sd : Side) : Prop :=
  (∀ (p : Nat) (q : Port), s.ports[p]? = some q → q.inside r sd = true →
    (s.side r sd).sown = { valid := true, owner := p } ∧
      (q.phase = .busy .s3 [.ringop, .reserve] → q.lat.k ≠ 0#32)) ∧
  ((s.side r sd).sown.valid = true → ∃ q ∈ s.ports, q.inside r sd = true)

/-! ### The ring invariant (spec/10 rule R23) -/

/-- `cons.tail ≤ cons.head ≤ prod.tail ≤ prod.head ≤ cons.tail + C` on modulo-2^32 counters (rule R23). -/
abbrev State.InOrder (s : State) (r : RingId) : Prop :=
  (s.headw r .cons - s.tailview r .cons).toNat + (s.tailview r .prod - s.headw r .cons).toNat +
    (s.headw r .prod - s.tailview r .prod).toNat ≤ (cap s.cfg r).toNat

/-- What is available on a side now (spec/40 rule R121). -/
abbrev State.availNow (s : State) (r : RingId) (sd : Side) : U32 :=
  avail s.cfg r sd (s.headw r sd) (s.tailview r sd.opp)

/-- The side a port's `RESERVE` works on (`RINGOP` of its command, or the reclaim pass). -/
def Port.reserves (q : Port) (r : RingId) (sd : Side) : Bool :=
  match q.phase, q.command with
  | .busy _ [.ringop, .reserve], some i => decide (ringopUse i = some (r, sd))
  | .busy _ [.reclaimseq, .reserve], some _ => decide ((r, sd) = (RingId.defer, Side.cons))
  | _, _ => false

/-- The head has not moved since the port loaded it: at `M3`, `S3` and `T4` the head word is the expected one; at `H3` the
tail half is, which a reservation that another port opens and cancels leaves as it is. -/
def Port.expectsHead (q : Port) (w : U64) : Bool :=
  match q.phase with
  | .busy .m3 _ => decide (loOf w = q.lat.oh)
  | .busy .s3 _ => decide (loOf w = q.lat.oh)
  | .busy .h3 _ => decide (hiOf w = q.lat.oh)
  | .busy .t4 _ => decide (w = pack q.lat.oh q.lat.oc)
  | _ => false

/-- The tail word a port's compare-and-swap at `T7` expects is the present one. -/
def Port.expectsTail (q : Port) (w : U64) : Bool :=
  match q.phase with
  | .busy .t7 _ => decide (w = q.lat.otw)
  | _ => false

/-- The premise of spec/70 rule R296 for one step from `s` to `t`: a word that a port's pending compare-and-swap no longer
expects does not come back to the value it expects. -/
def NoReuse (s t : State) : Prop :=
  ∀ (p : Nat) (q : Port) (r : RingId) (sd : Side), s.ports[p]? = some q → t.ports[p]? = some q →
    (q.reserves r sd = true → q.expectsHead (t.side r sd).a = true → q.expectsHead (s.side r sd).a = true) ∧
    (q.holds r sd = true → q.expectsTail (t.side r sd).b = true → q.expectsTail (s.side r sd).b = true)

/-- The positions a port holds on side `(r, sd)`, as an offset from the tail and a length, when it holds any (spec/40 rule
R123). -/
def State.heldRange (s : State) (q : Port) (r : RingId) (sd : Side) : Nat × Nat :=
  ((q.lat.oh - s.tailview r sd).toNat, q.lat.k.toNat)

/-- The reservations held on side `(r, sd)` are not empty, lie between the tail and the head and are pairwise disjoint
(spec/40 rule R141). -/
def State.RangesDisjoint (s : State) (r : RingId) (sd : Side) : Prop :=
  ∀ (p : Nat) (q : Port), s.ports[p]? = some q → q.holds r sd = true →
    q.lat.k ≠ 0#32 ∧
    (s.heldRange q r sd).1 + (s.heldRange q r sd).2 ≤ (s.headw r sd - s.tailview r sd).toNat ∧
    ∀ (p' : Nat) (q' : Port), s.ports[p']? = some q' → q'.holds r sd = true → p' ≠ p →
      (s.heldRange q r sd).1 + (s.heldRange q r sd).2 ≤ (s.heldRange q' r sd).1 ∨
        (s.heldRange q' r sd).1 + (s.heldRange q' r sd).2 ≤ (s.heldRange q r sd).1

/-- A side with nothing open has its tail at its head; under `MT` the open reservations fill the positions from the tail
to the head; under `RTS` the counters differ by the number of open reservations (spec/10 rule R24). -/
def State.OpenCounted (s : State) (r : RingId) (sd : Side) : Prop :=
  match syncOf s.cfg r sd with
  | .rts => s.headcnt r sd - s.tailcnt r sd = BitVec.ofNat 32 (s.ports.countP fun q => q.holds r sd)
  | .st => (∀ q ∈ s.ports, q.holds r sd = false) → s.headw r sd = s.tailview r sd
  | .mt =>
    (s.headw r sd - s.tailview r sd).toNat = ((s.ports.filter fun q => q.holds r sd).map fun q => q.lat.k.toNat).sum
  | .hts => (∀ q ∈ s.ports, q.holds r sd = false) → s.headw r sd = s.tailview r sd

/-- What a port in `RESERVE` on side `(r, sd)` knows of the side (spec/40 rule R124): under `ST` the head and the tail are
where it found them; what it is about to reserve is available as long as the head has not moved; a reclaim pass reserves
one entry exactly. -/
def State.candidateOk (s : State) (q : Port) (r : RingId) (sd : Side) : Bool :=
  (match q.phase with
    | .busy .s2 _ => decide (s.headw r sd = q.lat.oh) && decide (s.tailview r sd = q.lat.oh)
    | .busy .s3 _ => decide (s.headw r sd = q.lat.oh) && decide (s.tailview r sd = q.lat.oh)
    | _ => true) &&
  (!q.expectsHead (s.side r sd).a ||
    (decide (q.lat.k ≠ 0#32) && decide (q.lat.k ≤ avail s.cfg r sd q.lat.oh (s.tailview r sd.opp)))) &&
  (match q.phase with
    | .busy l [.reclaimseq, .reserve] =>
      decide (q.lat.n = 1#32) && decide (q.lat.beh = .exact) && (decide (l ≠ .h3) || decide (q.lat.k = 1#32))
    | _ => true)

/-- What a port with an open reservation on side `(r, sd)` knows of the side: under `ST` and `HTS` its range is from the
tail to the head (rule R139), at `M5` it is its turn (rule R133), a reclaim pass holds one entry. -/
def State.holderOk (s : State) (q : Port) (r : RingId) (sd : Side) : Bool :=
  (match syncOf s.cfg r sd with
    | .st => decide (q.lat.oh = s.tailview r sd) && decide (q.lat.oh + q.lat.k = s.headw r sd)
    | .hts => decide (q.lat.oh = s.tailview r sd) && decide (q.lat.oh + q.lat.k = s.headw r sd)
    | .mt => true
    | .rts => true) &&
  (match q.phase with
    | .busy .m5 _ => decide (q.lat.oh = s.tailview r sd)
    | .busy _ (.reclaimseq :: _) => decide (q.lat.k = 1#32)
    | _ => true)

/-- The position jump of `T7` is sound (spec/40 rule R136): if the port's compare-and-swap would succeed and move the tail
position, the new position lies between the tail and the head and every other open reservation lies above it. -/
def State.JumpSound (s : State) (p : Nat) (q : Port) (r : RingId) (sd : Side) : Prop :=
  q.expectsTail (s.side r sd).b = true → hiOf q.lat.otw + 1#32 = hiOf q.lat.hw →
    (loOf q.lat.hw - s.tailview r sd).toNat ≤ (s.headw r sd - s.tailview r sd).toNat ∧
    (s.heldRange q r sd).1 + (s.heldRange q r sd).2 ≤ (loOf q.lat.hw - s.tailview r sd).toNat ∧
    ∀ (p' : Nat) (q' : Port), s.ports[p']? = some q' → q'.holds r sd = true → p' ≠ p →
      (loOf q.lat.hw - s.tailview r sd).toNat ≤ (s.heldRange q' r sd).1

/-- The ring `r` in a reachable state: rule R23 of spec/10, rule R141 of spec/40, and what each port knows of the two sides
between its loads and its stores. -/
def State.RingOk (s : State) (r : RingId) : Prop :=
  s.InOrder r ∧ ∀ sd : Side, s.RangesDisjoint r sd ∧ s.OpenCounted r sd ∧
    ∀ (p : Nat) (q : Port), s.ports[p]? = some q →
      (q.reserves r sd = true → s.candidateOk q r sd = true) ∧
      (q.holds r sd = true → s.holderOk q r sd = true ∧ s.JumpSound p q r sd)

/-- The slot at position `x` of ring `r` holds a value (spec/10 rule R26). -/
def State.slotHeld (s : State) (r : RingId) (x : U32) : Prop :=
  ∀ b, b < esize s.cfg r → ((s.ring r).mem.read (addrOf s.cfg r x + b)).isSome = true

/-- A producer that has reserved position `x` of ring `r` has not copied yet. -/
def State.beingFilled (s : State) (r : RingId) (x : U32) : Prop :=
  ∃ q ∈ s.ports, q.holds r .prod = true ∧ q.phase = .busy .cp [.ringop, .copy] ∧ (x - q.lat.oh).toNat < q.lat.k.toNat

/-- Every position from the consumer tail to the producer head holds a value, or the producer that reserved it has not
copied yet (spec/10 rule R26, spec/20 rule R65). -/
def State.Filled (s : State) (r : RingId) : Prop :=
  ∀ x : U32, (x - s.tailview r .cons).toNat < (s.headw r .prod - s.tailview r .cons).toNat →
    s.slotHeld r x ∨ s.beingFilled r x

/-! ### Grace periods (spec/42 rule R191, spec/43 rule R228) -/

/-- `complete(T)` (rule R191): every registered thread's counter is at least `T`. -/
abbrev State.Complete (s : State) (tok : U64) : Prop :=
  ∀ i ∈ List.range (64 * s.bitmap.length), s.regd i = true → tok ≤ s.cntOf i

/-- The scan of the check sequence has passed thread `i`: its bitmap word lies below the present one, or its bit of the
present word is clear in the working copy (spec/42 rule R202). -/
def Port.passed (q : Port) (i : Nat) : Bool :=
  match q.phase with
  | .busy .v2 _ => decide (i / 64 < q.lat.wi.toNat)
  | .busy .v3 _ =>
    decide (i / 64 < q.lat.wi.toNat) || (decide (i / 64 = q.lat.wi.toNat) && !(q.lat.bm.getLsbD (i % 64)))
  | .busy .v4 _ => true
  | _ => false

/-- A port is past `V1` of a check sequence for a token already issued, and every registered thread that its scan has
passed has reported that token (spec/42 rules R202, R205). -/
def State.Scanning (s : State) (q : Port) : Prop :=
  (∃ l st, q.phase = .busy l st ∧
    ((l = .v2 ∧ q.lat.wi.toNat < nwords s.cfg) ∨ (l = .v3 ∧ q.lat.wi.toNat < nwords s.cfg ∧ q.lat.bm ≠ 0#64) ∨ l = .v4)) ∧
  q.lat.t ≤ s.token ∧
  ∀ i, i < 64 * s.bitmap.length → s.regd i = true → q.passed i = true → q.lat.t ≤ s.cntOf i

/-- The duty of spec/70 rule R293 for one step: no counter of a thread registered before and after goes backwards. -/
def CountersKept (s t : State) : Prop :=
  ∀ i, s.regd i = true → t.regd i = true → s.cntOf i ≤ t.cntOf i

/-- `ACKED_TOKEN` is known fully observed (spec/10 rule R28), and every registered thread that a check under way has passed
is accounted for in its `L.MINC` (spec/42 rule R204). -/
def State.AckedSound (s : State) : Prop :=
  s.Complete s.acked ∧
    ∀ q ∈ s.ports, ∀ i, i < 64 * s.bitmap.length → s.regd i = true → q.passed i = true →
      q.lat.seen = true ∧ q.lat.minc ≤ s.cntOf i

/-- No thread registers in this step that a check under way has passed before it loaded its first counter: the case that the
argument of spec/42 rule R204 leaves out (log entry 19). -/
def NoLateJoin (s t : State) : Prop :=
  ∀ q ∈ s.ports, q.lat.seen = false → ∀ i, q.passed i = true → s.regd i = false → t.regd i = false

/-! ### Runs in which the host keeps its duty to thread ids (spec/70 rule R293) -/

/-- The thread id a command names, for the six commands of rule R293. -/
def namesThread : Instr → Option U32
  | .thrReg tid => some tid
  | .thrUnreg tid => some tid
  | .quiescent tid => some tid
  | .sync tid => some tid
  | .rdLock tid => some tid
  | .rdUnlock tid => some tid
  | .enqBulk _ => none
  | .enqBurst _ => none
  | .deqBulk _ => none
  | .deqBurst _ => none
  | .ringCount => none
  | .ringFree => none
  | .start => none
  | .check _ _ => none
  | .dqEnq => none
  | .dqReclaim _ => none
  | .dqDelete => none
  | .csrRd _ _ => none

/-- The thread id that the command in flight on a port names, if there is one. -/
def Port.thread (q : Port) : Option U32 :=
  match q.phase with
  | .idle => none
  | .busy _ _ => q.command.bind namesThread

/-- At most one command in flight names a given thread id, over all ports (rule R293). -/
def State.OneOwner (s : State) : Prop :=
  ∀ (p p' : Nat) (q q' : Port) (tid : U32), s.ports[p]? = some q → s.ports[p']? = some q' →
    q.thread = some tid → q'.thread = some tid → p = p'

/-- The next `k` steps each answer a next state, and each pair of a state and its next state is in `P`. -/
def EachStep (P : State → State → Prop) : Nat → State → Prop
  | 0, _ => True
  | k + 1, s => ∃ t, step s = .next t ∧ P s t ∧ EachStep P k t

end Sys2Proof.Machine
end

