-- ==== Sys2Proof/Certificates/Slice0/Obligations.lean ====
section
/-! DEFINITION. The statements for the provers, file by file of the spec: encoding and acceptance (spec/30), the ring
protocols and commands (spec/40, spec/41), QSBR (spec/42), the defer queue (spec/43), the registers (spec/10, spec/44), and
what holds of every command and every step. -/

open Sys2Proof Sys2Proof.Machine

/-- Decode after encode, for all 18 commands and every operand (rules R90, R91, R94), at the level of the word, of its
bytes and of a message with its payload (rules R93, R95). -/
def Obligations.DecodeEncode : Prop :=
  ∀ i : Instr,
    decodeWord (encode i) = .ok i ∧
    decodeBytes (leBytes 16 (encode i).toNat) = .ok i ∧
    decodeTableWord 128 (encode i).toNat = some i ∧
    ∀ (cfg : Params) (pl : Payload),
      decodeMessage cfg { word := encode i, payload := pl } =
        if i.wf cfg pl = true then .ok i else .error .payloadSize

/-- Encode after decode: each command has one word (rules R94, R95). -/
def Obligations.EncodeDecode : Prop :=
  ∀ (w : U128) (i : Instr), decodeWord w = .ok i → encode i = w

/-- The legal words are those of the opcode table: each pair is a row's `match` and `mask` (rules R94, R95). -/
def Obligations.LegalWords : Prop :=
  ∀ w : U128,
    (∃ i, decodeWord w = .ok i) ↔
      ∃ row ∈ [
       (0x01#128, 0xFFFFFFFFFFFFFFFF00000000FFFFFFFF#128),
       (0x02#128, 0xFFFFFFFFFFFFFFFF00000000FFFFFFFF#128),
       (0x03#128, 0xFFFFFFFFFFFFFFFF00000000FFFFFFFF#128),
       (0x04#128, 0xFFFFFFFFFFFFFFFF00000000FFFFFFFF#128),
       (0x05#128, 0xFFFFFFFFFFFFFFFFFFFFFFFFFFFFFFFF#128),
       (0x06#128, 0xFFFFFFFFFFFFFFFFFFFFFFFFFFFFFFFF#128),
       (0x10#128, 0xFFFFFFFFFFFFFFFF00000000FFFFFFFF#128),
       (0x11#128, 0xFFFFFFFFFFFFFFFF00000000FFFFFFFF#128),
       (0x12#128, 0xFFFFFFFFFFFFFFFF00000000FFFFFFFF#128),
       (0x13#128, 0xFFFFFFFFFFFFFFFFFFFFFFFFFFFFFFFF#128),
       (0x14#128, 0x0000000000000000FFFFFFFFFFFFFEFF#128),
       (0x15#128, 0xFFFFFFFFFFFFFFFF00000000FFFFFFFF#128),
       (0x16#128, 0xFFFFFFFFFFFFFFFF00000000FFFFFFFF#128),
       (0x17#128, 0xFFFFFFFFFFFFFFFF00000000FFFFFFFF#128),
       (0x20#128, 0xFFFFFFFFFFFFFFFFFFFFFFFFFFFFFFFF#128),
       (0x21#128, 0xFFFFFFFFFFFFFFFF00000000FFFFFFFF#128),
       (0x22#128, 0xFFFFFFFFFFFFFFFFFFFFFFFFFFFFFFFF#128),
       (0x30#128, 0x000000000000000000000000FFFFFFFF#128)],
        w &&& row.2 = row.1

/-- The thirteen worked encodings of rule R106, words as the spec writes them, and the status codes of rule R101 in
the place that rule R100 gives them. -/
def Obligations.WorkedEncodings : Prop :=
  (∀ x ∈ [
      (0x00000000000000000000000400000001#128, Instr.enqBulk 4#32),
      (0x00000000000000000000000200000004#128, Instr.deqBurst 2#32),
      (0x00000000000000000000000000000005#128, Instr.ringCount),
      (0x00000000000000000000000300000010#128, Instr.thrReg 3#32),
      (0x00000000000000000000000000000013#128, Instr.start),
      (0x00000000000000050000000000000114#128, Instr.check 5#64 true),
      (0x00000000000000050000000000000014#128, Instr.check 5#64 false),
      (0x0000000000000000FFFFFFFF00000015#128, Instr.syncNr),
      (0x00000000000000000000000800000021#128, Instr.dqReclaim 8#32),
      (0x00000000000000030000100100000030#128, Instr.csrRd 0x1001#32 3#64)],
    decodeWord x.1 = .ok x.2 ∧ encode x.2 = x.1) ∧
  responseWord .ok 2#32 0#64 = 0x00000000000000000000000200000000#128 ∧
  responseWord .ok 0#32 7#64 = 0x00000000000000070000000000000000#128 ∧
  responseWord .ePending 1#32 0#64 = 0x00000000000000000000000100000005#128 ∧
  (let codes : List (Status × U128) :=
     [(.ok, 0x00#128), (.eInval, 0x01#128), (.eAlready, 0x02#128), (.eLocked, 0x03#128), (.eNotreg, 0x04#128),
      (.ePending, 0x05#128), (.eNodq, 0x06#128), (.eIllcmd, 0x07#128), (.eCfg, 0x08#128), (.eLockrange, 0x09#128),
      (.eFault, 0x0A#128)]
   (∀ x ∈ codes, responseWord x.1 0#32 0#64 = x.2) ∧ ∀ st : Status, st ∈ codes.map Prod.fst)

/-- The layout of a defer-queue entry and its two readings (rule R221). -/
def Obligations.EntryLayout : Prop :=
  ∀ (tok : U64) (elem : Element),
    (entryBytes tok elem).length = 8 + elem.length ∧
    (∀ k, k < 8 → (entryBytes tok elem)[k]? = some (tok.extractLsb' (8 * k) 8)) ∧
    (∀ k, (entryBytes tok elem)[8 + k]? = elem[k]?) ∧
    entryToken (entryBytes tok elem) = tok ∧
    entryElem (entryBytes tok elem) = elem

/-- What `step` adds around `exec`: it takes the event off the list and makes the granted port the current one; and
the host's actions (rule R262). The event list and what an event without a subject does are the model's (log entries
1, 2, 11). -/
def Obligations.StepRunsCommand : Prop :=
  ∀ (s : State) (es : List Event) (p : Nat) (q : Port),
    (s.sched = .grant p :: es → s.ports[p]? = some q →
      (∀ (m : Message) (rest : List Message) (i : Instr), q.phase = .idle → q.cmdch = m :: rest →
        decodeMessage s.cfg m = .ok i → step s = exec i { s with sched := es, cur := p }) ∧
      (∀ (l : Label) (st : List Seq) (i : Instr), q.phase = .busy l st → decodeWord q.lat.cmd = .ok i →
        step s = exec i { s with sched := es, cur := p }) ∧
      (q.phase = .idle → q.cmdch = [] → step s = .next { s with sched := es })) ∧
    (∀ m, s.sched = .send p m :: es →
      step s = .next { s with sched := es, ports := s.ports.modify p fun q => { q with cmdch := q.cmdch ++ [m] } }) ∧
    (s.sched = .takeRsp p :: es →
      step s = .next { s with sched := es, ports := s.ports.modify p fun q => { q with rspch := q.rspch.drop 1 } }) ∧
    (s.sched = .takeFree :: es → step s = .next { s with sched := es, freech := s.freech.drop 1 }) ∧
    (s.sched = [] →
      (∀ e, Config.freeEvent s.tick = some e → step s = step { s with sched := [e], tick := s.tick + 1 }) ∧
      (Config.freeEvent s.tick = none → step s = .next { s with tick := s.tick + 1 }))

/-- Acceptance (rules R92, R95, R97, R98, R253), for every message, with the operands that the step binds: `L.T`,
`L.WT` (rule R196), `L.N`, `L.BEH` (rules R91, R138; log entry 14). A busy port leaves its command channel as it is.
-/
def Obligations.Acceptance : Prop :=
  (∀ (s : State) (es : List Event) (p : Nat) (q : Port) (m : Message) (rest : List Message),
    s.sched = .grant p :: es → s.ports[p]? = some q → q.phase = .idle → q.cmdch = m :: rest →
    ∃ (t : State) (q' : Port), step s = .next t ∧ SameShared s t ∧ OnlyOwnPort { s with sched := es, cur := p } t ∧
      t.ports[p]? = some q' ∧ q'.cmdch = rest ∧
      match decodeMessage s.cfg m with
      | .error _ =>
        q'.phase = .idle ∧ q'.rspch = q.rspch ++ [{ word := responseWord .eIllcmd 0#32 0#64, payload := [] }]
      | .ok i =>
        if s.unitOk (unitOf i) = false then
          q'.phase = .idle ∧ q'.rspch = q.rspch ++ [{ word := responseWord .eCfg 0#32 0#64, payload := [] }]
        else if operandErrorOf s i = true then
          q'.phase = .idle ∧ q'.rspch = q.rspch ++ [{ word := responseWord .eInval 0#32 0#64, payload := [] }]
        else if zeroCountOf i = true then
          q'.phase = .idle ∧ q'.rspch = q.rspch ++ [{ word := responseWord .ok 0#32 0#64, payload := [] }]
        else
          q'.phase = .busy (firstLine s.cfg i).1 (firstLine s.cfg i).2 ∧ q'.rspch = q.rspch ∧
            q'.lat.cmd = m.word ∧ q'.lat.src = m.payload ∧
            (∀ tok wait, i = .check tok wait → q'.lat.t = tok ∧ q'.lat.wt = wait) ∧
            (∀ n, i = .enqBulk n ∨ i = .deqBulk n → q'.lat.n = n ∧ q'.lat.beh = .exact) ∧
            (∀ n, i = .enqBurst n ∨ i = .deqBurst n → q'.lat.n = n ∧ q'.lat.beh = .upTo)) ∧
  ∀ (s t : State) (es : List Event) (p : Nat) (q : Port) (l : Label) (st : List Seq),
    s.sched = .grant p :: es → s.ports[p]? = some q → q.phase = .busy l st → step s = .next t →
    ∃ q', t.ports[p]? = some q' ∧ q'.cmdch = q.cmdch

/-- The reset values of rule R41 (rules R280, R281). The latches hold no value after reset; theirs in the model is log
entry 4's choice and not stated here. The default configuration is log entry 3's choice; `sched`, `tick` and `cur`,
the model's own fields, are after a reset as log entry 18 chooses. -/
def Obligations.ResetValues : Prop :=
  (∀ (s : State) (cfg : Params) (es : List Event), s.sched = .reset cfg :: es →
    step s = .next { State.resetWith cfg with sched := es, tick := s.tick }) ∧
  State.reset = State.resetWith defaultParams ∧
  ∀ cfg : Params,
    let t := State.resetWith cfg
    let capacity := fun c : U32 => ∃ e : Nat, e ≤ 31 ∧ c.toNat = 2 ^ e
    let size := fun b : U32 => b.toNat ≠ 0 ∧ b.toNat % 4 = 0
    let ringGood := capacity cfg.c0 ∧ size cfg.e0
    let qGood := cfg.maxThreads.toNat ≠ 0
    let dqGood := qGood ∧ capacity cfg.dqSize ∧ size cfg.dqEsize ∧ cfg.dqPsync ≠ .st
    t.cfg = cfg ∧
    (∀ r sd, t.side r sd = { a := 0#64, b := 0#64, sown := { valid := false, owner := 0 } }) ∧
    (∀ r a, (t.ring r).mem.read a = none) ∧
    t.token = 0#64 ∧ t.acked = 0#64 ∧ t.numThreads = 0#32 ∧
    t.bitmap.length = (cfg.maxThreads.toNat + 63) / 64 ∧ (∀ i, t.regd i = false) ∧
    t.cnt.length = cfg.maxThreads.toNat ∧ (∀ i, t.cntOf i = 0#64) ∧
    t.lockcnt.length = cfg.maxThreads.toNat ∧ (∀ i, t.lockOf i = 0#32) ∧
    (t.status.getLsbD 0 = true ↔ ringGood) ∧ (t.status.getLsbD 1 = true ↔ qGood) ∧
    (t.status.getLsbD 2 = true ↔ dqGood) ∧ (t.status.getLsbD 3 = true ↔ dqGood) ∧
    t.r0Ok = t.status.getLsbD 0 ∧ t.qOk = t.status.getLsbD 1 ∧ t.dqOk = t.status.getLsbD 2 ∧
    t.dqAlive = t.status.getLsbD 3 ∧ t.status &&& ~~~(15#64) = 0#64 ∧
    (ringGood ∧ qGood ∧ dqGood → t.fault = 0#64) ∧ (¬(ringGood ∧ qGood ∧ dqGood) → t.fault = 1#64) ∧
    t.ports.length = cfg.nports ∧ (∀ q ∈ t.ports, q.phase = .idle ∧ q.cmdch = [] ∧ q.rspch = []) ∧
    t.freech = []

/-- Lines `M1`, `M2`, `M3` (rule R125). The request is in the latches `N` and `BEH` (log entry 14). -/
def Obligations.ReserveMt : Prop :=
  ∀ (i : Instr) (r : RingId) (sd : Side) (s : State), ringopUse i = some (r, sd) → syncOf s.cfg r sd = .mt →
    (s.atLine .m1 [.ringop, .reserve] →
      ∃ t, exec i s = .next t ∧ OnlyOwnPort s t ∧ SameShared s t ∧
        t.lat = { s.lat with oh := s.headw r sd } ∧ Continues s t .m2 [.ringop, .reserve]) ∧
    (s.atLine .m2 [.ringop, .reserve] →
      let opt := s.tailview r sd.opp
      let k := clamp (avail s.cfg r sd s.lat.oh opt) s.lat.n s.lat.beh
      ∃ t, exec i s = .next t ∧ OnlyOwnPort s t ∧ SameShared s t ∧
        if k = 0#32 then AfterRingop i s t { s.lat with opt := opt, k := k }
        else t.lat = { s.lat with opt := opt, k := k } ∧ Continues s t .m3 [.ringop, .reserve]) ∧
    (s.atLine .m3 [.ringop, .reserve] → s.lat.k ≠ 0#32 →
      ∃ t, exec i s = .next t ∧ OnlyOwnPort s t ∧ SameOutsideRings s t ∧ OnlySide s t r sd ∧ t.lat = s.lat ∧
        if s.headw r sd = s.lat.oh then
          t.side r sd = { s.side r sd with a := pack (s.lat.oh + s.lat.k) (hiOf (s.side r sd).a) } ∧
          Continues s t .cp [.ringop, .copy]
        else t.side r sd = s.side r sd ∧ Continues s t .m1 [.ringop, .reserve])

/-- Lines `S1`, `S2`, `S3` (rule R126) and the fault they may raise (rule R254). -/
def Obligations.ReserveSt : Prop :=
  ∀ (i : Instr) (r : RingId) (sd : Side) (s : State), ringopUse i = some (r, sd) → syncOf s.cfg r sd = .st →
    (s.atLine .s1 [.ringop, .reserve] →
      ∃ t, exec i s = .next t ∧ OnlyOwnPort s t ∧
        if (s.side r sd).sown.valid = true then
          SameRings s t ∧ SameTokens s t ∧ SameThreads s t ∧ t.freech = s.freech ∧ t.status = s.status ∧
            t.fault = s.fault ||| 2#64 ∧ Answered s t .eFault 0#32 0#64 [] ∧ t.lat = s.lat
        else
          SameOutsideRings s t ∧ OnlySide s t r sd ∧
            t.side r sd = { s.side r sd with sown := { valid := true, owner := s.cur } } ∧
            t.lat = { s.lat with oh := s.headw r sd } ∧ Continues s t .s2 [.ringop, .reserve]) ∧
    (s.atLine .s2 [.ringop, .reserve] →
      let opt := s.tailview r sd.opp
      let k := clamp (avail s.cfg r sd s.lat.oh opt) s.lat.n s.lat.beh
      ∃ t, exec i s = .next t ∧ OnlyOwnPort s t ∧ SameOutsideRings s t ∧ OnlySide s t r sd ∧
        if k = 0#32 then
          t.side r sd = { s.side r sd with sown := { valid := false, owner := 0 } } ∧
            AfterRingop i s t { s.lat with opt := opt, k := k }
        else
          t.side r sd = s.side r sd ∧ t.lat = { s.lat with opt := opt, k := k } ∧ Continues s t .s3 [.ringop, .reserve]) ∧
    (s.atLine .s3 [.ringop, .reserve] → s.lat.k ≠ 0#32 →
      ∃ t, exec i s = .next t ∧ OnlyOwnPort s t ∧ SameOutsideRings s t ∧ OnlySide s t r sd ∧ t.lat = s.lat ∧
        t.side r sd = { s.side r sd with a := pack (s.lat.oh + s.lat.k) (hiOf (s.side r sd).a) } ∧
        Continues s t .cp [.ringop, .copy])

/-- Lines `H1`, `H2`, `H3` (rule R127). -/
def Obligations.ReserveHts : Prop :=
  ∀ (i : Instr) (r : RingId) (sd : Side) (s : State), ringopUse i = some (r, sd) → syncOf s.cfg r sd = .hts →
    (s.atLine .h1 [.ringop, .reserve] →
      ∃ t, exec i s = .next t ∧ OnlyOwnPort s t ∧ SameShared s t ∧
        if loOf (s.side r sd).a ≠ hiOf (s.side r sd).a then t.lat = s.lat ∧ Continues s t .h1 [.ringop, .reserve]
        else t.lat = { s.lat with oh := loOf (s.side r sd).a } ∧ Continues s t .h2 [.ringop, .reserve]) ∧
    (s.atLine .h2 [.ringop, .reserve] →
      let opt := s.tailview r sd.opp
      let k := clamp (avail s.cfg r sd s.lat.oh opt) s.lat.n s.lat.beh
      ∃ t, exec i s = .next t ∧ OnlyOwnPort s t ∧ SameShared s t ∧
        if k = 0#32 then AfterRingop i s t { s.lat with opt := opt, k := k }
        else t.lat = { s.lat with opt := opt, k := k } ∧ Continues s t .h3 [.ringop, .reserve]) ∧
    (s.atLine .h3 [.ringop, .reserve] → s.lat.k ≠ 0#32 →
      ∃ t, exec i s = .next t ∧ OnlyOwnPort s t ∧ SameOutsideRings s t ∧ OnlySide s t r sd ∧ t.lat = s.lat ∧
        if (s.side r sd).a = pack s.lat.oh s.lat.oh then
          t.side r sd = { s.side r sd with a := pack (s.lat.oh + s.lat.k) s.lat.oh } ∧
          Continues s t .cp [.ringop, .copy]
        else t.side r sd = s.side r sd ∧ Continues s t .h1 [.ringop, .reserve])

/-- Lines `T1` to `T4` (rule R128). -/
def Obligations.ReserveRts : Prop :=
  ∀ (i : Instr) (r : RingId) (sd : Side) (s : State), ringopUse i = some (r, sd) → syncOf s.cfg r sd = .rts →
    (s.atLine .t1 [.ringop, .reserve] →
      ∃ t, exec i s = .next t ∧ OnlyOwnPort s t ∧ SameShared s t ∧
        t.lat = { s.lat with oh := loOf (s.side r sd).a, oc := hiOf (s.side r sd).a } ∧ Continues s t .t2 [.ringop, .reserve]) ∧
    (s.atLine .t2 [.ringop, .reserve] →
      ∃ t, exec i s = .next t ∧ OnlyOwnPort s t ∧ SameShared s t ∧ t.lat = s.lat ∧
        if htdMax s.cfg r < s.lat.oh - s.tailview r sd then Continues s t .t1 [.ringop, .reserve]
        else Continues s t .t3 [.ringop, .reserve]) ∧
    (s.atLine .t3 [.ringop, .reserve] →
      let opt := s.tailview r sd.opp
      let k := clamp (avail s.cfg r sd s.lat.oh opt) s.lat.n s.lat.beh
      ∃ t, exec i s = .next t ∧ OnlyOwnPort s t ∧ SameShared s t ∧
        if k = 0#32 then AfterRingop i s t { s.lat with opt := opt, k := k }
        else t.lat = { s.lat with opt := opt, k := k } ∧ Continues s t .t4 [.ringop, .reserve]) ∧
    (s.atLine .t4 [.ringop, .reserve] → s.lat.k ≠ 0#32 →
      ∃ t, exec i s = .next t ∧ OnlyOwnPort s t ∧ SameOutsideRings s t ∧ OnlySide s t r sd ∧ t.lat = s.lat ∧
        if (s.side r sd).a = pack s.lat.oh s.lat.oc then
          t.side r sd = { s.side r sd with a := pack (s.lat.oh + s.lat.k) (s.lat.oc + 1#32) } ∧
          Continues s t .cp [.ringop, .copy]
        else t.side r sd = s.side r sd ∧ Continues s t .t1 [.ringop, .reserve])

/-- Line `CP` (rule R130): the addresses stored to are `addrOf` of the positions `L.OH + j`, `j < L.K` (rule R61). -/
def Obligations.CopyMovesElements : Prop :=
  ∀ (i : Instr) (r : RingId) (sd : Side) (s : State), ringopUse i = some (r, sd) → s.atLine .cp [.ringop, .copy] →
    ispow2 (cap s.cfg r) = true → s.lat.k ≠ 0#32 → s.lat.k ≤ cap s.cfg r →
    let addr := fun j : Nat => addrOf s.cfg r (s.lat.oh + BitVec.ofNat 32 j)
    (sd = .prod → (s.ring r).mem.wf = true →
      ∃ t, exec i s = .next t ∧ OnlyOwnPort s t ∧ SameOutsideRings s t ∧ t.lat = s.lat ∧
        (∀ r' sd', t.side r' sd' = s.side r' sd') ∧ (∀ r', r' ≠ r → t.ring r' = s.ring r') ∧
        (∀ j, j < s.lat.k.toNat → ∀ b, b < esize s.cfg r →
          (t.ring r).mem.read (addr j + b) = some (s.lat.src.byte (j * esize s.cfg r + b))) ∧
        (∀ a, (∀ j, j < s.lat.k.toNat → ¬(addr j ≤ a ∧ a < addr j + esize s.cfg r)) →
          (t.ring r).mem.read a = (s.ring r).mem.read a) ∧
        Continues s t (publishFirst (syncOf s.cfg r sd)) [.ringop, .publish]) ∧
    (sd = .cons → ∀ es : List Element, es.length = s.lat.k.toNat →
      (∀ j, j < s.lat.k.toNat → (s.ring r).mem.readBytes (addr j) (esize s.cfg r) = es[j]?) →
      ∃ t, exec i s = .next t ∧ OnlyOwnPort s t ∧ SameShared s t ∧ t.lat = { s.lat with dst := es } ∧
        Continues s t (publishFirst (syncOf s.cfg r sd)) [.ringop, .publish])

/-- Rule R26 gives an unwritten slot no value and says that no rule reads one; the stop is the model's choice (log
entry 5). -/
def Obligations.CopyStopsOnEmptySlot : Prop :=
  (∀ (i : Instr) (n : U32) (beh : Beh) (s : State), ringRequest i = some (.cons, n, beh) →
    s.atLine .cp [.ringop, .copy] → cap s.cfg .fifo ≠ 0#32 →
    (∃ j, j < s.lat.k.toNat ∧
      (s.fifo.mem.readBytes (addrOf s.cfg .fifo (s.lat.oh + BitVec.ofNat 32 j)) (esize s.cfg .fifo)) = none) →
    exec i s = .fault .unwrittenSlot) ∧
  ∀ (i : Instr) (s : State), reclaims i = true → s.atLine .x1 [.reclaimseq] → cap s.cfg .defer ≠ 0#32 →
    s.defer.mem.readBytes (addrOf s.cfg .defer s.lat.oh) (esize s.cfg .defer) = none →
    exec i s = .fault .unwrittenSlot

/-- The wrap-around form of the copy equals the loop of rule R130 (rule R131). -/
def Obligations.CopyInTwoMoves : Prop :=
  ∀ (i : Instr) (r : RingId) (sd : Side) (s t : State), ringopUse i = some (r, sd) → s.atLine .cp [.ringop, .copy] →
    ispow2 (cap s.cfg r) = true → s.lat.k ≤ cap s.cfg r → exec i s = .next t →
    let e := esize s.cfg r
    let i0 := (slotOf s.cfg r s.lat.oh).toNat
    let k := s.lat.k.toNat
    let c := (cap s.cfg r).toNat
    let items := fun a b : Nat => (List.range (b - a)).flatMap fun j => s.lat.src.elem e (a + j)
    let mem := (s.ring r).mem
    (sd = .prod →
      (t.ring r).mem =
        if i0 + k ≤ c then mem.writeBytes (i0 * e) (items 0 k)
        else (mem.writeBytes (i0 * e) (items 0 (c - i0))).writeBytes 0 (items (c - i0) k)) ∧
    (sd = .cons →
      if i0 + k ≤ c then mem.readBytes (i0 * e) (k * e) = some t.lat.dst.flatten
      else ∃ xs ys, mem.readBytes (i0 * e) ((c - i0) * e) = some xs ∧
        mem.readBytes 0 ((k - (c - i0)) * e) = some ys ∧ t.lat.dst.flatten = xs ++ ys)

/-- Lines `M4`, `M5` (rule R133); what follows the operation is `AfterRingop` (rules R170 to R173, R224). -/
def Obligations.PublishMt : Prop :=
  ∀ (i : Instr) (r : RingId) (sd : Side) (s : State), ringopUse i = some (r, sd) → syncOf s.cfg r sd = .mt →
    (s.atLine .m4 [.ringop, .publish] →
      ∃ t, exec i s = .next t ∧ OnlyOwnPort s t ∧ SameShared s t ∧ t.lat = s.lat ∧
        if s.tailview r sd ≠ s.lat.oh then Continues s t .m4 [.ringop, .publish] else Continues s t .m5 [.ringop, .publish]) ∧
    (s.atLine .m5 [.ringop, .publish] →
      ∃ t, exec i s = .next t ∧ OnlyOwnPort s t ∧ SameOutsideRings s t ∧ OnlySide s t r sd ∧
        t.side r sd = { s.side r sd with b := pack (s.lat.oh + s.lat.k) (hiOf (s.side r sd).b) } ∧
        AfterRingop i s t s.lat)

/-- Line `S4` (rule R134) and line `H4` (rule R135). -/
def Obligations.PublishStHts : Prop :=
  ∀ (i : Instr) (r : RingId) (sd : Side) (s : State), ringopUse i = some (r, sd) →
    (syncOf s.cfg r sd = .st → s.atLine .s4 [.ringop, .publish] →
      ∃ t, exec i s = .next t ∧ OnlyOwnPort s t ∧ SameOutsideRings s t ∧ OnlySide s t r sd ∧
        t.side r sd =
          { s.side r sd with
            b := pack (s.lat.oh + s.lat.k) (hiOf (s.side r sd).b)
            sown := { valid := false, owner := 0 } } ∧
        AfterRingop i s t s.lat) ∧
    (syncOf s.cfg r sd = .hts → s.atLine .h4 [.ringop, .publish] →
      ∃ t, exec i s = .next t ∧ OnlyOwnPort s t ∧ SameOutsideRings s t ∧ OnlySide s t r sd ∧
        t.side r sd = { s.side r sd with a := pack (s.lat.oh + s.lat.k) (s.lat.oh + s.lat.k) } ∧
        AfterRingop i s t s.lat)

/-- Lines `T5`, `T6`, `T7` (rule R136). -/
def Obligations.PublishRts : Prop :=
  ∀ (i : Instr) (r : RingId) (sd : Side) (s : State), ringopUse i = some (r, sd) → syncOf s.cfg r sd = .rts →
    (s.atLine .t5 [.ringop, .publish] →
      ∃ t, exec i s = .next t ∧ OnlyOwnPort s t ∧ SameShared s t ∧
        t.lat = { s.lat with otw := (s.side r sd).b } ∧ Continues s t .t6 [.ringop, .publish]) ∧
    (s.atLine .t6 [.ringop, .publish] →
      ∃ t, exec i s = .next t ∧ OnlyOwnPort s t ∧ SameShared s t ∧
        t.lat = { s.lat with hw := (s.side r sd).a } ∧ Continues s t .t7 [.ringop, .publish]) ∧
    (s.atLine .t7 [.ringop, .publish] →
      ∃ t, exec i s = .next t ∧ OnlyOwnPort s t ∧ SameOutsideRings s t ∧ OnlySide s t r sd ∧
        if (s.side r sd).b = s.lat.otw then
          t.side r sd = { s.side r sd with b :=
            (if hiOf s.lat.otw + 1#32 = hiOf s.lat.hw then pack (loOf s.lat.hw) (hiOf s.lat.hw)
            else pack (loOf s.lat.otw) (hiOf s.lat.otw + 1#32)) } ∧
          AfterRingop i s t s.lat
        else t.side r sd = s.side r sd ∧ t.lat = s.lat ∧ Continues s t .t5 [.ringop, .publish])

/-- Rules R138, R139 and R300 for the whole of `ENQ_BULK` and `ENQ_BURST` without contention; `K` by the form of the
command (rules R121, R122, R171), the consumer tail by rule R22, the addresses by rule R61. -/
def Obligations.EnqueueAlone : Prop :=
  ∀ (s : State) (p : Nat) (q : Port) (m : Message) (rest : List Message) (i : Instr) (n k h c : U32),
    let tail := if s.cfg.csync0 = .hts then hiOf s.fifo.cons.a else loOf s.fifo.cons.b
    let av := (s.cfg.c0 + tail - h).toNat
    (i = .enqBulk n ∧ k.toNat = if n.toNat ≤ av then n.toNat else 0) ∨ (i = .enqBurst n ∧ k.toNat = min n.toNat av) →
    n ≠ 0#32 → decodeMessage s.cfg m = .ok i →
    s.ports[p]? = some q → q.phase = .idle → q.cmdch = m :: rest →
    s.r0Ok = true → ispow2 s.cfg.c0 = true → s.fifo.mem.wf = true →
    let d := s.cfg.psync0
    s.fifo.prod = idleSide d h c → k ≤ s.cfg.c0 →
    let e := s.cfg.e0.toNat
    let addr := fun j : Nat => (h + BitVec.ofNat 32 j).toNat % s.cfg.c0.toNat * e
    ∃ (t : State) (q' : Port),
      runAlone p (1 + if k = 0#32 then emptySteps d else ringopSteps d) s = .next t ∧
      OnlyOwnPort { s with cur := p, sched := [] } t ∧ SameOutsideRings s t ∧ t.defer = s.defer ∧
      t.ports[p]? = some q' ∧ q'.phase = .idle ∧ q'.cmdch = rest ∧
      q'.rspch = q.rspch ++ [{ word := responseWord .ok k 0#64, payload := [] }] ∧
      t.fifo.cons = s.fifo.cons ∧
      t.fifo.prod = (if k = 0#32 then idleSide d h c else idleSide d (h + k) (c + 1#32)) ∧
      (∀ j, j < k.toNat → ∀ b, b < e → t.fifo.mem.read (addr j + b) = some (m.payload.byte (j * e + b))) ∧
      ∀ a, (∀ j, j < k.toNat → ¬(addr j ≤ a ∧ a < addr j + e)) → t.fifo.mem.read a = s.fifo.mem.read a

/-- Rules R138, R139 and R300 for the whole of `DEQ_BULK` and `DEQ_BURST` without contention; `K` by the form of the
command (rules R121, R122, R173), the producer tail by rule R22, the addresses by rule R61. -/
def Obligations.DequeueAlone : Prop :=
  ∀ (s : State) (p : Nat) (q : Port) (m : Message) (rest : List Message) (i : Instr) (n k h c : U32) (es : List Element),
    let tail := if s.cfg.psync0 = .hts then hiOf s.fifo.prod.a else loOf s.fifo.prod.b
    let av := (tail - h).toNat
    (i = .deqBulk n ∧ k.toNat = if n.toNat ≤ av then n.toNat else 0) ∨ (i = .deqBurst n ∧ k.toNat = min n.toNat av) →
    n ≠ 0#32 → decodeMessage s.cfg m = .ok i →
    s.ports[p]? = some q → q.phase = .idle → q.cmdch = m :: rest →
    s.r0Ok = true → ispow2 s.cfg.c0 = true →
    let d := s.cfg.csync0
    s.fifo.cons = idleSide d h c → k ≤ s.cfg.c0 → es.length = k.toNat →
    let e := s.cfg.e0.toNat
    (∀ j, j < k.toNat → s.fifo.mem.readBytes ((h + BitVec.ofNat 32 j).toNat % s.cfg.c0.toNat * e) e = es[j]?) →
    ∃ (t : State) (q' : Port),
      runAlone p (1 + if k = 0#32 then emptySteps d else ringopSteps d) s = .next t ∧
      OnlyOwnPort { s with cur := p, sched := [] } t ∧ SameOutsideRings s t ∧ t.defer = s.defer ∧
      t.ports[p]? = some q' ∧ q'.phase = .idle ∧ q'.cmdch = rest ∧
      q'.rspch = q.rspch ++ [{ word := responseWord .ok k 0#64, payload := es }] ∧
      t.fifo.prod = s.fifo.prod ∧ t.fifo.mem = s.fifo.mem ∧
      t.fifo.cons = (if k = 0#32 then idleSide d h c else idleSide d (h + k) (c + 1#32))

/-- FIFO order (rule R143) for one enqueue and one dequeue in sequence, on two ports. -/
def Obligations.FifoOrder : Prop :=
  ∀ (s : State) (p p' : Nat) (q q' : Port) (m m' : Message) (rest rest' : List Message) (i i' : Instr) (n : U32)
    (beh beh' : Beh) (h c c' : U32),
    p ≠ p' → s.ports[p]? = some q → q.phase = .idle → q.cmdch = m :: rest →
    s.ports[p']? = some q' → q'.phase = .idle → q'.cmdch = m' :: rest' →
    decodeMessage s.cfg m = .ok i → ringRequest i = some (.prod, n, beh) →
    decodeMessage s.cfg m' = .ok i' → ringRequest i' = some (.cons, n, beh') →
    n ≠ 0#32 → n ≤ cap s.cfg .fifo → s.r0Ok = true → ringValid s.cfg = true → s.fifo.mem.wf = true →
    let dp := syncOf s.cfg .fifo .prod
    let dc := syncOf s.cfg .fifo .cons
    s.side .fifo .prod = idleSide dp h c → s.side .fifo .cons = idleSide dc h c' →
    let a := 1 + ringopSteps dp
    let b := 1 + ringopSteps dc
    ∃ (t : State) (u u' : Port),
      Sys2Proof.core.run (a + b)
        { s with sched := List.replicate a (.grant p) ++ List.replicate b (.grant p') } = .next t ∧
      t.ports[p]? = some u ∧ u.phase = .idle ∧
      u.rspch = q.rspch ++ [{ word := responseWord .ok n 0#64, payload := [] }] ∧
      t.ports[p']? = some u' ∧ u'.phase = .idle ∧
      u'.rspch = q'.rspch ++
        [{ word := responseWord .ok n 0#64
           payload := (List.range n.toNat).map fun j => m.payload.elem (esize s.cfg .fifo) j }]

/-- Lines `N1`, `N2` (rule R176) of `RING_COUNT` (rule R174) and `RING_FREE` (rule R175). -/
def Obligations.CountLines : Prop :=
  ∀ (i : Instr) (s : State), i = .ringCount ∨ i = .ringFree →
    (s.atLine .n1 [.countseq] →
      ∃ t, exec i s = .next t ∧ OnlyOwnPort s t ∧ SameShared s t ∧
        t.lat = { s.lat with ct := s.tailview .fifo .cons } ∧ Continues s t .n2 [.countseq]) ∧
    (s.atLine .n2 [.countseq] →
      let n := min (s.tailview .fifo .prod - s.lat.ct).toNat s.cfg.c0.toNat
      ∃ t, exec i s = .next t ∧ OnlyOwnPort s t ∧ SameShared s t ∧
        t.lat = { s.lat with cntv := BitVec.ofNat 32 n } ∧
        (i = .ringCount → Answered s t .ok (BitVec.ofNat 32 n) 0#64 []) ∧
        (i = .ringFree → Answered s t .ok (BitVec.ofNat 32 (s.cfg.c0.toNat - n)) 0#64 []))

/-- Line `G1` (rule R192). -/
def Obligations.ThrRegLine : Prop :=
  ∀ (tid : U32) (s : State), s.atLine .g1 [] → s.hasThread tid.toNat →
    ∃ t, exec (.thrReg tid) s = .next t ∧ OnlyOwnPort s t ∧ t.lat = s.lat ∧
      if s.regd tid.toNat = true then SameShared s t ∧ Answered s t .eAlready 0#32 0#64 []
      else if s.lockOf tid.toNat ≠ 0#32 then SameShared s t ∧ Answered s t .eLocked 0#32 0#64 []
      else
        Answered s t .ok 0#32 0#64 [] ∧ SameRings s t ∧ SameTokens s t ∧ SameFlags s t ∧ t.freech = s.freech ∧ t.lockcnt = s.lockcnt ∧
          t.numThreads = s.numThreads + 1#32 ∧ t.cntOf tid.toNat = s.token ∧ t.regd tid.toNat = true ∧
          (∀ j, j ≠ tid.toNat → t.cntOf j = s.cntOf j ∧ t.regd j = s.regd j) ∧
          t.cnt.length = s.cnt.length ∧ t.bitmap.length = s.bitmap.length

/-- Line `U1` (rule R193). -/
def Obligations.ThrUnregLine : Prop :=
  ∀ (tid : U32) (s : State), s.atLine .u1 [] → s.hasThread tid.toNat →
    ∃ t, exec (.thrUnreg tid) s = .next t ∧ OnlyOwnPort s t ∧ t.lat = s.lat ∧
      if s.regd tid.toNat = false then SameShared s t ∧ Answered s t .eNotreg 0#32 0#64 []
      else if s.lockOf tid.toNat ≠ 0#32 then SameShared s t ∧ Answered s t .eLocked 0#32 0#64 []
      else
        Answered s t .ok 0#32 0#64 [] ∧ SameRings s t ∧ SameTokens s t ∧ SameFlags s t ∧ t.freech = s.freech ∧ t.lockcnt = s.lockcnt ∧
          t.cnt = s.cnt ∧ t.numThreads = s.numThreads - 1#32 ∧ t.regd tid.toNat = false ∧
          (∀ j, j ≠ tid.toNat → t.regd j = s.regd j) ∧ t.bitmap.length = s.bitmap.length

/-- Lines `Q1`, `Q2` (rule R194). -/
def Obligations.QuiescentLines : Prop :=
  ∀ (tid : U32) (s : State), s.hasThread tid.toNat →
    (s.atLine .q1 [] →
      ∃ t, exec (.quiescent tid) s = .next t ∧ OnlyOwnPort s t ∧ SameShared s t ∧ t.lat = { s.lat with qt := s.token } ∧
        if s.regd tid.toNat = false then Answered s t .eNotreg 0#32 0#64 []
        else if s.lockOf tid.toNat ≠ 0#32 then Answered s t .eLocked 0#32 0#64 []
        else Continues s t .q2 []) ∧
    (s.atLine .q2 [] →
      ∃ t, exec (.quiescent tid) s = .next t ∧ OnlyOwnPort s t ∧ t.lat = s.lat ∧ Answered s t .ok 0#32 0#64 [] ∧
        SameRings s t ∧ SameTokens s t ∧ SameFlags s t ∧ t.freech = s.freech ∧ t.bitmap = s.bitmap ∧ t.numThreads = s.numThreads ∧
        t.lockcnt = s.lockcnt ∧ t.cntOf tid.toNat = s.lat.qt ∧ (∀ j, j ≠ tid.toNat → t.cntOf j = s.cntOf j) ∧
        t.cnt.length = s.cnt.length)

/-- Line `A1` (rule R195) with `TKINC` (rule R198) and its fault (rule R199). -/
def Obligations.StartLine : Prop :=
  ∀ s : State, s.atLine .a1 [] →
    ∃ t, exec .start s = .next t ∧ OnlyOwnPort s t ∧ SameRings s t ∧ SameThreads s t ∧ t.acked = s.acked ∧
      t.status = s.status ∧ t.freech = s.freech ∧
      if s.token.toNat < 2 ^ 64 - 1 then
        t.token.toNat = s.token.toNat + 1 ∧ t.fault = s.fault ∧ t.lat = { s.lat with tok := t.token } ∧
          Answered s t .ok 0#32 t.token []
      else
        t.token = s.token ∧ t.fault = s.fault ||| 4#64 ∧ t.lat = s.lat ∧ Answered s t .eFault 0#32 0#64 []

/-- Token wrap (rule R199) at each of the three lines that issue a token. -/
def Obligations.TokenNeverWraps : Prop :=
  ∀ (i : Instr) (s : State), s.token.toNat = 2 ^ 64 - 1 →
    ((i = .start ∧ s.atLine .a1 []) ∨
      (∃ tid, i = .sync tid ∧ s.atLine .y1 [] ∧
        ¬(tid < s.cfg.maxThreads ∧ s.regd tid.toNat = true ∧ s.lockOf tid.toNat ≠ 0#32)) ∨
      (i = .dqEnq ∧ s.atLine .d1 [] ∧ s.dqAlive = true)) →
    ∃ t, exec i s = .next t ∧ OnlyOwnPort s t ∧ SameRings s t ∧ SameTokens s t ∧ SameThreads s t ∧
      t.status = s.status ∧ t.freech = s.freech ∧ t.fault = s.fault ||| 4#64 ∧ Answered s t .eFault 0#32 0#64 []

/-- Lines `L1` (rule R200) and `L2` (rule R201). -/
def Obligations.LockLines : Prop :=
  ∀ (tid : U32) (s : State), s.hasThread tid.toNat →
    (s.atLine .l1 [] →
      ∃ t, exec (.rdLock tid) s = .next t ∧ OnlyOwnPort s t ∧ t.lat = s.lat ∧
        if (s.lockOf tid.toNat).toNat = 2 ^ 32 - 1 then SameShared s t ∧ Answered s t .eLockrange 0#32 0#64 []
        else
          Answered s t .ok 0#32 0#64 [] ∧ SameRings s t ∧ SameTokens s t ∧ SameFlags s t ∧ t.freech = s.freech ∧ t.bitmap = s.bitmap ∧
            t.numThreads = s.numThreads ∧ t.cnt = s.cnt ∧
            (t.lockOf tid.toNat).toNat = (s.lockOf tid.toNat).toNat + 1 ∧
            (∀ j, j ≠ tid.toNat → t.lockOf j = s.lockOf j) ∧ t.lockcnt.length = s.lockcnt.length) ∧
    (s.atLine .l2 [] →
      ∃ t, exec (.rdUnlock tid) s = .next t ∧ OnlyOwnPort s t ∧ t.lat = s.lat ∧
        if (s.lockOf tid.toNat).toNat = 0 then SameShared s t ∧ Answered s t .eLockrange 0#32 0#64 []
        else
          Answered s t .ok 0#32 0#64 [] ∧ SameRings s t ∧ SameTokens s t ∧ SameFlags s t ∧ t.freech = s.freech ∧ t.bitmap = s.bitmap ∧
            t.numThreads = s.numThreads ∧ t.cnt = s.cnt ∧
            (t.lockOf tid.toNat).toNat + 1 = (s.lockOf tid.toNat).toNat ∧
            (∀ j, j ≠ tid.toNat → t.lockOf j = s.lockOf j) ∧ t.lockcnt.length = s.lockcnt.length)

/-- Lines `Y1`, `Y2`, `Y3` (rule R197); the fault of `Y1` is the statement `TokenNeverWraps`, the check that follows
is `CheckLines`. -/
def Obligations.SyncLines : Prop :=
  ∀ (tid : U32) (s : State),
    (s.atLine .y1 [] →
      let rdr := decide (tid < s.cfg.maxThreads) && s.regd tid.toNat
      s.token.toNat < 2 ^ 64 - 1 ∨ (rdr = true ∧ s.lockOf tid.toNat ≠ 0#32) →
      ∃ t, exec (.sync tid) s = .next t ∧ OnlyOwnPort s t ∧ SameRings s t ∧ SameThreads s t ∧ SameFlags s t ∧
        t.acked = s.acked ∧ t.freech = s.freech ∧
        if rdr = true ∧ s.lockOf tid.toNat ≠ 0#32 then
          t.token = s.token ∧ t.lat = { s.lat with rdr := rdr } ∧ Answered s t .eLocked 0#32 0#64 []
        else
          t.token.toNat = s.token.toNat + 1 ∧
            if rdr = true then t.lat = { s.lat with rdr := rdr, tok := t.token } ∧ Continues s t .y2 []
            else
              t.lat = { s.lat with rdr := rdr, tok := t.token, t := t.token, wt := true } ∧
                Continues s t .v1 [.checkseq]) ∧
    (s.atLine .y2 [] →
      ∃ t, exec (.sync tid) s = .next t ∧ OnlyOwnPort s t ∧ SameShared s t ∧ t.lat = { s.lat with qt := s.token } ∧
        Continues s t .y3 []) ∧
    (s.atLine .y3 [] → s.hasThread tid.toNat →
      ∃ t, exec (.sync tid) s = .next t ∧ OnlyOwnPort s t ∧ SameRings s t ∧ SameTokens s t ∧ SameFlags s t ∧ t.freech = s.freech ∧
        t.bitmap = s.bitmap ∧ t.numThreads = s.numThreads ∧ t.lockcnt = s.lockcnt ∧
        t.cntOf tid.toNat = s.lat.qt ∧ (∀ j, j ≠ tid.toNat → t.cntOf j = s.cntOf j) ∧ t.cnt.length = s.cnt.length ∧
        t.lat = { s.lat with t := s.lat.tok, wt := true } ∧ Continues s t .v1 [.checkseq])

/-- Lines `V1` to `V4` (rule R202), with the update of rule R204 and the wait of rule R203; `AtCheckNext` is the
continuation `next`. -/
def Obligations.CheckLines : Prop :=
  ∀ (i : Instr) (st : List Seq) (s : State), checkUse i = some st →
    (s.atLine .v1 st →
      ∃ t, exec i s = .next t ∧ OnlyOwnPort s t ∧ SameShared s t ∧
        if s.lat.t ≤ s.acked then AfterCheck i s t { s.lat with okf := true }
        else t.lat = { s.lat with wi := 0#32, seen := false } ∧ Continues s t .v2 st) ∧
    (s.atLine .v2 st →
      ∃ t, exec i s = .next t ∧ OnlyOwnPort s t ∧ SameShared s t ∧
        AtCheckNext i st s t { s.lat with bm := s.bitmap.getD s.lat.wi.toNat 0#64 }) ∧
    (s.atLine .v3 st → ∀ j, j < 64 → s.lat.bm.getLsbD j = true → (∀ j', j' < j → s.lat.bm.getLsbD j' = false) →
      let c := s.cntOf (64 * s.lat.wi.toNat + j)
      ∃ t, exec i s = .next t ∧ OnlyOwnPort s t ∧ SameShared s t ∧
        if c < s.lat.t then
          if s.lat.wt = true then t.lat = s.lat ∧ Continues s t .v2 st
          else AfterCheck i s t { s.lat with okf := false }
        else
          AtCheckNext i st s t
            { s.lat with
              minc := if s.lat.seen = false ∨ c < s.lat.minc then c else s.lat.minc
              seen := true
              bm := s.lat.bm &&& ~~~(1#64 <<< j) }) ∧
    (s.atLine .v4 st →
      ∃ t, exec i s = .next t ∧ OnlyOwnPort s t ∧ SameRings s t ∧ SameThreads s t ∧ SameFlags s t ∧
        t.freech = s.freech ∧ t.token = s.token ∧ t.acked.toNat = max s.acked.toNat s.lat.minc.toNat ∧
        AfterCheck i s t { s.lat with okf := true })

/-- The result of a whole check without contention (rules R191, R196, R202), its step bound (rule R300), and rules
R207 and R227 where `ACKED_TOKEN` is what rule R28 says it is, fully observed (log entry 19). -/
def Obligations.CheckAloneDecides : Prop :=
  (∀ (s : State) (p : Nat) (q : Port) (m : Message) (rest : List Message) (tok : U64) (wait : Bool),
    s.Sound → s.RegistryOk → decodeMessage s.cfg m = .ok (.check tok wait) → s.qOk = true →
    s.ports[p]? = some q → q.phase = .idle → q.cmdch = m :: rest →
    (wait = true → tok ≤ s.acked ∨ s.Complete tok) →
    ∃ (k : Nat) (t : State) (q' : Port) (v : U64), k ≤ 1 + 2 + nwords s.cfg + s.cfg.maxThreads.toNat ∧
      runAlone p k s = .next t ∧ OnlyOwnPort { s with cur := p, sched := [] } t ∧
      SameRings s t ∧ SameThreads s t ∧ SameFlags s t ∧ t.freech = s.freech ∧ t.token = s.token ∧
      t.ports[p]? = some q' ∧ q'.phase = .idle ∧ q'.cmdch = rest ∧
      q'.rspch = q.rspch ++ [{ word := responseWord .ok 0#32 v, payload := [] }] ∧
      v = (if tok ≤ s.acked ∨ s.Complete tok then 1#64 else 0#64) ∧
      (s.Complete s.acked → v = if s.Complete tok then 1#64 else 0#64)) ∧
  ∀ (s : State) (p : Nat) (q : Port) (m : Message) (rest : List Message) (i : Instr) (st : Status) (h : U32) (e : Element),
    (∃ n, i = .dqReclaim n ∧ n ≠ 0#32 ∧ st = .ok) ∨ (i = .dqDelete ∧ st = .ePending) →
    s.Sound → s.RegistryOk → s.Complete s.acked → decodeMessage s.cfg m = .ok i → s.dqOk = true → s.dqAlive = true →
    s.ports[p]? = some q → q.phase = .idle → q.cmdch = m :: rest →
    s.defer.cons = idleSide .hts h 0#32 → s.tailview .defer .prod ≠ h →
    s.defer.mem.readBytes (addrOf s.cfg .defer h) (esize s.cfg .defer) = some e → ¬ s.Complete (entryToken e) →
    ∃ (k : Nat) (t : State) (q' : Port), k ≤ 8 + nwords s.cfg + s.cfg.maxThreads.toNat ∧
      runAlone p k s = .next t ∧ OnlyOwnPort { s with cur := p, sched := [] } t ∧ SameShared s t ∧
      t.ports[p]? = some q' ∧ q'.phase = .idle ∧ q'.cmdch = rest ∧
      q'.rspch = q.rspch ++ [{ word := responseWord st 0#32 0#64, payload := [] }]

/-- The liveness test (rule R223). -/
def Obligations.DeadQueueAnswers : Prop :=
  ∀ (i : Instr) (s : State), s.dqAlive = false →
    ((i = .dqEnq ∧ s.atLine .d1 []) ∨ (∃ n, i = .dqReclaim n ∧ s.atLine .r1 []) ∨ (i = .dqDelete ∧ s.atLine .z0 [])) →
    ∃ t, exec i s = .next t ∧ OnlyOwnPort s t ∧ SameShared s t ∧ t.lat = s.lat ∧ Answered s t .eNodq 0#32 0#64 []

/-- Lines `D1`, `N1`, `N2` of `DQ_ENQ` (rule R224); the lines of its push are the `Reserve`, `Copy` and `Publish`
statements. -/
def Obligations.DqEnqLines : Prop :=
  ∀ s : State,
    (s.atLine .d1 [] → s.dqAlive = true → s.token.toNat < 2 ^ 64 - 1 →
      ∃ t, exec .dqEnq s = .next t ∧ OnlyOwnPort s t ∧ SameRings s t ∧ SameThreads s t ∧ SameFlags s t ∧
        t.acked = s.acked ∧ t.freech = s.freech ∧ t.token.toNat = s.token.toNat + 1 ∧
        t.lat = { s.lat with tok := t.token, n := 1#32, beh := .exact, src := t.lat.src } ∧
        t.lat.src.size = esize s.cfg .defer ∧
        t.lat.src.elem (esize s.cfg .defer) 0 = entryBytes t.token (s.lat.src.elem s.cfg.dqEsize.toNat 0) ∧
        Continues s t (reserveFirst (syncOf s.cfg .defer .prod)) [.ringop, .reserve]) ∧
    (s.atLine .n1 [.countseq] →
      ∃ t, exec .dqEnq s = .next t ∧ OnlyOwnPort s t ∧ SameShared s t ∧
        t.lat = { s.lat with ct := s.tailview .defer .cons } ∧ Continues s t .n2 [.countseq]) ∧
    (s.atLine .n2 [.countseq] →
      let n := min (s.tailview .defer .prod - s.lat.ct).toNat s.cfg.dqSize.toNat
      ∃ t, exec .dqEnq s = .next t ∧ OnlyOwnPort s t ∧ SameShared s t ∧
        if n ≤ s.cfg.triggerLimit.toNat then
          t.lat = { s.lat with cntv := BitVec.ofNat 32 n } ∧
            Answered s t .ok (if s.lat.kq = true then 1#32 else 0#32) s.lat.tok []
        else
          AtReclaimLoop .dqEnq s t
            { s.lat with cntv := BitVec.ofNat 32 n, lim := .num s.cfg.maxReclaim, freed := 0#32 })

/-- Lines `R1` (rule R225) and `Z0` (rule R226) with the head of `RECLAIMSEQ` (rule R222). -/
def Obligations.ReclaimBegins : Prop :=
  ∀ s : State, s.dqAlive = true →
    (∀ n, s.atLine .r1 [] →
      ∃ t, exec (.dqReclaim n) s = .next t ∧ OnlyOwnPort s t ∧ SameShared s t ∧
        AtReclaimLoop (.dqReclaim n) s t { s.lat with lim := .num n, freed := 0#32 }) ∧
    (s.atLine .z0 [] →
      ∃ t, exec .dqDelete s = .next t ∧ OnlyOwnPort s t ∧ SameShared s t ∧
        t.lat = { s.lat with lim := .inf, freed := 0#32, n := 1#32, beh := .exact } ∧
        Continues s t .h1 [.reclaimseq, .reserve])

/-- Lines `H1`, `H2`, `H3`, `X1` of the reclaim pass (rules R222, R127). -/
def Obligations.ReclaimTakesOldest : Prop :=
  ∀ (i : Instr) (s : State), reclaims i = true →
    (s.atLine .h1 [.reclaimseq, .reserve] →
      ∃ t, exec i s = .next t ∧ OnlyOwnPort s t ∧ SameShared s t ∧
        if loOf s.defer.cons.a ≠ hiOf s.defer.cons.a then t.lat = s.lat ∧ Continues s t .h1 [.reclaimseq, .reserve]
        else t.lat = { s.lat with oh := loOf s.defer.cons.a } ∧ Continues s t .h2 [.reclaimseq, .reserve]) ∧
    (s.atLine .h2 [.reclaimseq, .reserve] →
      let opt := s.tailview .defer .prod
      let k := clamp (opt - s.lat.oh) s.lat.n s.lat.beh
      ∃ t, exec i s = .next t ∧ OnlyOwnPort s t ∧ SameShared s t ∧
        if k = 0#32 then AfterReclaim i s t { s.lat with opt := opt, k := k, why := .empty }
        else t.lat = { s.lat with opt := opt, k := k } ∧ Continues s t .h3 [.reclaimseq, .reserve]) ∧
    (s.atLine .h3 [.reclaimseq, .reserve] → s.lat.k ≠ 0#32 →
      ∃ t, exec i s = .next t ∧ OnlyOwnPort s t ∧ SameOutsideRings s t ∧ OnlySide s t .defer .cons ∧ t.lat = s.lat ∧
        if s.defer.cons.a = pack s.lat.oh s.lat.oh then
          t.defer.cons = { s.defer.cons with a := pack (s.lat.oh + s.lat.k) s.lat.oh } ∧ Continues s t .x1 [.reclaimseq]
        else t.defer.cons = s.defer.cons ∧ Continues s t .h1 [.reclaimseq, .reserve]) ∧
    (s.atLine .x1 [.reclaimseq] → cap s.cfg .defer ≠ 0#32 → ∀ e : Element,
      s.defer.mem.readBytes (addrOf s.cfg .defer s.lat.oh) (esize s.cfg .defer) = some e →
      ∃ t, exec i s = .next t ∧ OnlyOwnPort s t ∧ SameShared s t ∧
        t.lat = { s.lat with ent := e, t := entryToken e, wt := false } ∧ Continues s t .v1 [.reclaimseq, .checkseq])

/-- Line `X2` (rule R222) and the FREE message (rule R103). -/
def Obligations.ReclaimFrees : Prop :=
  ∀ (i : Instr) (s : State), reclaims i = true → s.atLine .x2 [.reclaimseq] →
    ∃ t, exec i s = .next t ∧ OnlyOwnPort s t ∧ OnlySide s t .defer .cons ∧ SameTokens s t ∧ SameThreads s t ∧
      SameFlags s t ∧
      t.defer.cons = { s.defer.cons with a := pack (s.lat.oh + 1#32) (s.lat.oh + 1#32) } ∧
      t.freech = s.freech ++ [{ ctx := s.cfg.dqCtx, element := s.lat.ent.drop 8, count := 1#32 }] ∧
      AtReclaimLoop i s t { s.lat with freed := s.lat.freed + 1#32 }

/-- Line `H5` (rule R137) and the end of a blocked pass (rules R222, R224 to R226). -/
def Obligations.ReclaimCancels : Prop :=
  ∀ (i : Instr) (s : State), reclaims i = true → s.atLine .h5 [.reclaimseq, .cancel] →
    ∃ t, exec i s = .next t ∧ OnlyOwnPort s t ∧ SameOutsideRings s t ∧ OnlySide s t .defer .cons ∧
      t.defer.cons = { s.defer.cons with a := pack s.lat.oh s.lat.oh } ∧
      AfterReclaim i s t { s.lat with why := .blocked }

/-- Line `Z1` (rule R226). -/
def Obligations.DeleteEnds : Prop :=
  ∀ s : State, s.atLine .z1 [] →
    ∃ t, exec .dqDelete s = .next t ∧ OnlyOwnPort s t ∧ SameRings s t ∧ SameTokens s t ∧ SameThreads s t ∧
      t.fault = s.fault ∧ t.freech = s.freech ∧ t.lat = s.lat ∧ t.dqAlive = false ∧
      (∀ b, b ≠ 3 → t.status.getLsbD b = s.status.getLsbD b) ∧ Answered s t .ok s.lat.freed 0#64 []

/-- Line `C1` (rule R240); an invalid pair is answered `E_INVAL` at acceptance (statement `Acceptance`), the map is
`CsrMap`. -/
def Obligations.CsrReads : Prop :=
  ∀ (reg : U32) (idx : U64) (v : U64) (s : State), s.atLine .c1 [] → s.csr reg idx = some v →
    ∃ t, exec (.csrRd reg idx) s = .next t ∧ OnlyOwnPort s t ∧ SameShared s t ∧ t.lat = s.lat ∧
      Answered s t .ok 0#32 v []

/-- The CSR map (rule R40), row by row, with `HTD_MAX`, `SYNC` and `NWORDS` of rule R7 and the tags of rule R21
written out. A port number is a natural number in the model and is cut to the field: the owner's to 32 bits, `NPORTS`
to 64 (log entry 10). -/
def Obligations.CsrMap : Prop :=
  ∀ s : State,
    let owner := fun o : Owner => if o.valid = true then BitVec.ofNat 64 (1 + 2 ^ 32 * o.owner) else 0#64
    let tag := fun d : Sync => if d = .st then 0 else if d = .mt then 1 else if d = .hts then 2 else 3
    let scalars : List (U32 × U64) :=
     [(0x0000#32, BitVec.ofNat 64 s.cfg.nports),
      (0x0010#32, s.cfg.c0.setWidth 64),
      (0x0011#32, s.cfg.e0.setWidth 64),
      (0x0012#32, BitVec.ofNat 64 (tag s.cfg.psync0 + 4 * tag s.cfg.csync0)),
      (0x0013#32, (s.cfg.htdCfg0.getD (BitVec.ofNat 32 (s.cfg.c0.toNat / 8))).setWidth 64),
      (0x0020#32, s.cfg.dqSize.setWidth 64),
      (0x0021#32, BitVec.ofNat 64 (8 + s.cfg.dqEsize.toNat)),
      (0x0022#32, BitVec.ofNat 64 ((if s.cfg.dqMt = .sp then 0 else tag s.cfg.dqPsync) + 4 * 2)),
      (0x0023#32, BitVec.ofNat 64 (s.cfg.dqSize.toNat / 8)),
      (0x0030#32, s.cfg.maxThreads.setWidth 64),
      (0x0040#32, s.cfg.triggerLimit.setWidth 64),
      (0x0041#32, s.cfg.maxReclaim.setWidth 64),
      (0x0042#32, s.cfg.dqCtx),
      (0x0043#32, s.cfg.dqEsize.setWidth 64),
      (0x0044#32, if s.cfg.dqMt = .sp then 0#64 else 1#64),
      (0x0100#32, s.fifo.prod.a),
      (0x0101#32, s.fifo.prod.b),
      (0x0102#32, s.fifo.cons.a),
      (0x0103#32, s.fifo.cons.b),
      (0x0110#32, s.defer.prod.a),
      (0x0111#32, s.defer.prod.b),
      (0x0112#32, s.defer.cons.a),
      (0x0113#32, s.defer.cons.b),
      (0x0120#32, owner s.fifo.prod.sown),
      (0x0121#32, owner s.fifo.cons.sown),
      (0x0122#32, owner s.defer.prod.sown),
      (0x0123#32, owner s.defer.cons.sown),
      (0x0200#32, s.token),
      (0x0201#32, s.acked),
      (0x0202#32, s.numThreads.setWidth 64),
      (0x0300#32, s.status),
      (0x0301#32, s.fault)]
    (∀ x ∈ scalars, s.csr x.1 0#64 = some x.2 ∧ ∀ idx, idx ≠ 0#64 → s.csr x.1 idx = none) ∧
    (∀ idx : U64,
      s.csr 0x1000#32 idx = (if idx.toNat < (s.cfg.maxThreads.toNat + 63) / 64 then some (s.bitmap.getD idx.toNat 0#64) else none) ∧
      s.csr 0x1001#32 idx = (if idx.toNat < s.cfg.maxThreads.toNat then some (s.cntOf idx.toNat) else none) ∧
      s.csr 0x1002#32 idx =
        (if idx.toNat < s.cfg.maxThreads.toNat then some ((s.lockOf idx.toNat).setWidth 64) else none)) ∧
    ∀ reg idx, reg ∉ scalars.map Prod.fst → reg ∉ [0x1000#32, 0x1001#32, 0x1002#32] → s.csr reg idx = none

/-- Port state is private to its port (rules R20, R36, R37, R263); one response per command (rules R92, R100). -/
def Obligations.OwnPortOnly : Prop :=
  ∀ (i : Instr) (s t : State), exec i s = .next t →
    OnlyOwnPort s t ∧
    (s.phase ≠ .idle → t.port.cmdch = s.port.cmdch ∧ t.lat.cmd = s.lat.cmd) ∧
    (s.phase = .idle → ∃ m, s.port.cmdch = m :: t.port.cmdch) ∧
    (t.port.rspch = s.port.rspch ∨ (t.phase = .idle ∧ ∃ x, t.port.rspch = s.port.rspch ++ [x]))

/-- Who writes `TOKEN` (rules R27, R198) and `ACKED_TOKEN` (rules R28, R204). -/
def Obligations.TokenWriters : Prop :=
  ∀ (i : Instr) (s t : State), exec i s = .next t →
    (t.token ≠ s.token →
      t.token.toNat = s.token.toNat + 1 ∧ t.lat.tok = t.token ∧
      ((i = .start ∧ s.phase = .busy .a1 []) ∨ (∃ tid, i = .sync tid ∧ s.phase = .busy .y1 []) ∨
        (i = .dqEnq ∧ s.phase = .busy .d1 []))) ∧
    (t.acked ≠ s.acked →
      t.acked = s.lat.minc ∧ s.acked < t.acked ∧ ∃ st, checkUse i = some st ∧ s.phase = .busy .v4 st)

/-- Who writes `STATUS` and `FAULT` (rules R33, R34, R254). -/
def Obligations.FlagWriters : Prop :=
  ∀ (i : Instr) (s t : State), exec i s = .next t →
    (t.status = s.status ∨ (i = .dqDelete ∧ s.phase = .busy .z1 [] ∧ t.status = s.status &&& ~~~(8#64))) ∧
    (t.fault = s.fault ∨
      (Answered s t .eFault 0#32 0#64 [] ∧
        ((t.fault = s.fault ||| 2#64 ∧ ∃ st, s.phase = .busy .s1 st) ∨
          (t.fault = s.fault ||| 4#64 ∧ ∃ l ∈ [Label.a1, .y1, .d1], s.phase = .busy l [])))) ∧
    s.fault &&& t.fault = s.fault

/-- Who writes the QSBR registers (rules R30, R31, R32). -/
def Obligations.ThreadWriters : Prop :=
  ∀ (i : Instr) (s t : State), exec i s = .next t →
    (t.bitmap ≠ s.bitmap ∨ t.numThreads ≠ s.numThreads →
      ∃ tid, (i = .thrReg tid ∧ s.phase = .busy .g1 []) ∨ (i = .thrUnreg tid ∧ s.phase = .busy .u1 [])) ∧
    (t.cnt ≠ s.cnt →
      ∃ tid, ((i = .thrReg tid ∧ s.phase = .busy .g1 []) ∨ (i = .quiescent tid ∧ s.phase = .busy .q2 []) ∨
        (i = .sync tid ∧ s.phase = .busy .y3 [])) ∧ ∀ j, j ≠ tid.toNat → t.cntOf j = s.cntOf j) ∧
    (t.lockcnt ≠ s.lockcnt →
      ∃ tid, ((i = .rdLock tid ∧ s.phase = .busy .l1 []) ∨ (i = .rdUnlock tid ∧ s.phase = .busy .l2 [])) ∧
        ∀ j, j ≠ tid.toNat → t.lockOf j = s.lockOf j)

/-- Who writes the rings and `FREECH` (rule R66). -/
def Obligations.RingWriters : Prop :=
  ∀ (i : Instr) (s t : State), exec i s = .next t →
    (∀ r, (t.ring r).mem ≠ (s.ring r).mem → ringopUse i = some (r, .prod) ∧ s.phase = .busy .cp [.ringop, .copy]) ∧
    (∀ r sd, t.side r sd ≠ s.side r sd →
      (ringopUse i = some (r, sd) ∧ ∃ l st, s.phase = .busy l (.ringop :: st) ∧
        l ∈ [Label.m3, .m5, .s1, .s2, .s3, .s4, .h3, .h4, .t4, .t7]) ∨
      (reclaims i = true ∧ r = .defer ∧ sd = .cons ∧ ∃ l st, s.phase = .busy l (.reclaimseq :: st) ∧
        l ∈ [Label.m3, .s1, .s2, .s3, .h3, .t4, .h5, .x2])) ∧
    (t.freech = s.freech ∨
      (reclaims i = true ∧ s.phase = .busy .x2 [.reclaimseq] ∧ ∃ m, t.freech = s.freech ++ [m]))

/-- Precision of errors (rule R255) for the step that detects one. -/
def Obligations.ErrorsArePrecise : Prop :=
  ∀ (i : Instr) (s t : State) (st : Status) (cnt : U32) (val : U64) (pl : List Element), exec i s = .next t →
    t.port.rspch = s.port.rspch ++ [{ word := responseWord st cnt val, payload := pl }] → st ≠ .ok →
    SameTokens s t ∧ SameThreads s t ∧ t.status = s.status ∧ t.freech = s.freech ∧
    (∀ r, (t.ring r).mem = (s.ring r).mem) ∧ (t.fault = s.fault ∨ st = .eFault) ∧
    (SameRings s t ∨ (i = .dqDelete ∧ st = .ePending ∧ ∃ x, s.phase = .busy .h5 x))

/-- `State.Sound` is kept by every step. -/
def Obligations.SoundKept : Prop :=
  ∀ s t : State, s.Sound → step s = .next t → t.Sound

/-- Every line of every command answers a next state; the one stop left is log entry 5's. -/
def Obligations.SoundNeverStops : Prop :=
  ∀ s : State, s.Sound → (∃ t, step s = .next t) ∨ step s = .fault .unwrittenSlot

/-- The base case of the invariants. -/
def Obligations.ResetMeetsInvariants : Prop :=
  ∀ cfg : Params,
    let s := State.resetWith cfg
    s.Sound ∧ s.TokensOrdered ∧ s.AckedSound ∧ s.RegistryOk ∧ s.ReservedZero ∧
    ∀ r, s.RingOk r ∧ s.Filled r ∧ ∀ sd, s.HtsExclusive r sd ∧ s.StOwned r sd

/-- `CNT[i] <= TOKEN` and `ACKED_TOKEN <= TOKEN` (rules R28, R31), with the latches that carry a token (log entry 4
makes a latch of an idle port immaterial). -/
def Obligations.TokensOrderedKept : Prop :=
  ∀ s t : State, s.TokensOrdered → step s = .next t → t.TokensOrdered

/-- The registry invariant (rules R29, R30). -/
def Obligations.RegistryKept : Prop :=
  ∀ s t : State, s.Sound → s.RegistryOk → step s = .next t → t.RegistryOk

/-- The reserved parts of rules R21, R25, R33, R34. -/
def Obligations.ReservedZeroKept : Prop :=
  ∀ s t : State, s.Sound → s.ReservedZero → step s = .next t → t.ReservedZero

/-- Exclusion under `HTS` (rules R24, R127, R141). -/
def Obligations.HtsExclusiveKept : Prop :=
  ∀ (s t : State) (r : RingId) (sd : Side), s.Sound → syncOf s.cfg r sd = .hts → s.HtsExclusive r sd →
    (∀ cfg, (nextEvent s).1 ≠ some (.reset cfg)) → step s = .next t → t.HtsExclusive r sd

/-- The owner register (rules R25, R126). -/
def Obligations.StOwnedKept : Prop :=
  ∀ (s t : State) (r : RingId) (sd : Side), s.Sound → syncOf s.cfg r sd = .st → s.StOwned r sd →
    (∀ cfg, (nextEvent s).1 ≠ some (.reset cfg)) → step s = .next t → t.StOwned r sd

/-- The ring invariant (rule R23) with no double reservation (rule R141) and the soundness of the availability
snapshot (rule R124) and of the RTS position jump (rule R136); premise: rule R296. -/
def Obligations.RingOrderKept : Prop :=
  ∀ (s t : State) (r : RingId), s.Sound → (∀ sd, syncOf s.cfg r sd = .st → s.StOwned r sd) → s.RingOk r →
    step s = .next t → NoReuse s t → t.RingOk r

/-- A slot is written before it is published (rules R26, R70). -/
def Obligations.PublishedSlotsHoldValues : Prop :=
  ∀ (s t : State) (r : RingId), s.Sound → (∀ sd, syncOf s.cfg r sd = .st → s.StOwned r sd) → s.RingOk r → s.Filled r →
    step s = .next t → NoReuse s t → t.Filled r

/-- No rule reads an unwritten slot while rule R23 holds (rule R26). -/
def Obligations.OrderedRingsNeverStop : Prop :=
  ∀ s : State, s.Sound → (∀ r, s.RingOk r ∧ s.Filled r) → ∃ t, step s = .next t

/-- The predicate `complete` and its monotonicity (rule R191); the premise on counters is the duty of rule R293. -/
def Obligations.CompleteStays : Prop :=
  (∀ (s t : State) (tok : U64), s.Sound → tok ≤ s.token → s.Complete tok →
    (∀ cfg, (nextEvent s).1 ≠ some (.reset cfg)) → step s = .next t → CountersKept s t → t.Complete tok) ∧
  (∀ s : State, s.Complete 0#64) ∧
  ∀ (s : State) (tok : U64), (∀ i, s.regd i = false) → s.Complete tok

/-- Grace-period soundness (rule R205), by the scan of rule R202 and by its fast path, and rules R204 and R207 as far
as the pseudocode carries them: the premise `NoLateJoin` is what it needs beyond rule R293 (log entry 19; that it is
needed is the statement `AckedCanRunAhead`). -/
def Obligations.ScanIsSound : Prop :=
  (∀ (i : Instr) (st : List Seq) (s t : State), s.Sound → 0 < nwords s.cfg → checkUse i = some st →
    s.atLine .v1 st → s.acked < s.lat.t → s.lat.t ≤ s.token → exec i s = .next t → t.Scanning t.port) ∧
  (∀ (s t : State) (p : Nat) (q : Port), s.Sound → s.ports[p]? = some q → s.Scanning q →
    (∀ cfg, (nextEvent s).1 ≠ some (.reset cfg)) → step s = .next t → CountersKept s t →
    ∃ q', t.ports[p]? = some q' ∧ q'.lat.t = q.lat.t ∧
      (t.Scanning q' ∨
        ((∀ l st, q'.phase = .busy l st → l ∉ [Label.v1, .v2, .v3, .v4]) ∧ (q'.lat.okf = true → t.Complete q.lat.t)))) ∧
  (∀ (i : Instr) (st : List Seq) (s : State), s.AckedSound → checkUse i = some st → s.atLine .v1 st →
    s.lat.t ≤ s.acked →
    ∃ t, exec i s = .next t ∧ SameShared s t ∧ AfterCheck i s t { s.lat with okf := true } ∧ t.Complete s.lat.t) ∧
  (∀ s t : State, s.Sound → s.TokensOrdered → s.AckedSound → step s = .next t → CountersKept s t → NoLateJoin s t →
    t.AckedSound) ∧
  ∀ (i : Instr) (s t : State) (j : Nat) (tok : U64), exec i s = .next t → s.regd j = true → s.cntOf j < tok →
    tok ≤ t.cntOf j →
    tok ≤ s.lat.qt ∧ ∃ tid : U32, tid.toNat = j ∧
      ((i = .quiescent tid ∧ s.phase = .busy .q2 []) ∨ (i = .sync tid ∧ s.phase = .busy .y3 []))

/-- The pseudocode of rule R202, taken word for word, lets `V4` record a `L.MINC` above the counter of a thread that
registered after its bitmap word was loaded, and `V1` then answer for it (log entry 19). The host keeps its duty of
rule R293 at every step; its other duties concern rings, the defer queue and references. -/
def Obligations.AckedCanRunAhead : Prop :=
  ∃ (before after : List Event) (s t : State) (p i : Nat) (q : Port) (tok : U64) (wait : Bool),
    let start := { State.reset with sched := before ++ after }
    let dutyKept := fun u v : State => CountersKept u v ∧ u.OneOwner ∧ v.OneOwner ∧ v.fault = 0#64
    EachStep dutyKept before.length start ∧ Sys2Proof.core.run before.length start = .next s ∧
    s.regd i = true ∧ s.token < tok ∧
    EachStep (fun u v => dutyKept u v ∧ v.regd i = true) after.length s ∧
    Sys2Proof.core.run after.length s = .next t ∧ t.sched = [] ∧
    (∀ e ∈ before ++ after, (∃ p', e = .grant p') ∨
      ∃ p' m c, e = .send p' m ∧ decodeMessage State.reset.cfg m = .ok c ∧ unitOf c = .qsbr) ∧
    t.cntOf i < t.acked ∧ t.acked ≤ t.token ∧ t.cntOf i < tok ∧ tok ≤ t.token ∧
    t.ports[p]? = some q ∧ q.phase = .idle ∧ decodeWord q.lat.cmd = .ok (.check tok wait) ∧
    q.rspch.getLast? = some { word := responseWord .ok 0#32 1#64, payload := [] }
end

