-- ==== Sys2Proof/Laws/Encoding.lean ====
section
/-! SUPPORT. The command word: what each field of an assembled word reads, that a word is assembled from its fields, and
what a decoded word must look like for each shape of command. -/

namespace Sys2Proof

/-! ### The fields of an assembled word -/

@[simp] theorem fieldOpc_assemble (o : BitVec 8) (w : Bool) (a : U32) (b : U64) : fieldOpc (assemble o w a b) = o := by
  unfold fieldOpc assemble
  ext i hi
  simp
  grind

@[simp] theorem fieldWait_assemble (o : BitVec 8) (w : Bool) (a : U32) (b : U64) : fieldWait (assemble o w a b) = w := by
  unfold fieldWait assemble
  simp only [BitVec.getLsbD_append]
  simp

@[simp] theorem fieldReserved_assemble (o : BitVec 8) (w : Bool) (a : U32) (b : U64) :
    fieldReserved (assemble o w a b) = 0#23 := by
  unfold fieldReserved assemble
  ext i hi
  simp
  grind

@[simp] theorem fieldArg32_assemble (o : BitVec 8) (w : Bool) (a : U32) (b : U64) :
    fieldArg32 (assemble o w a b) = a := by
  unfold fieldArg32 assemble
  ext i hi
  simp
  grind

@[simp] theorem fieldArg64_assemble (o : BitVec 8) (w : Bool) (a : U32) (b : U64) :
    fieldArg64 (assemble o w a b) = b := by
  unfold fieldArg64 assemble
  ext i hi
  simp
  grind

/-- A word whose reserved bits are 0 is assembled from its fields. -/
theorem assemble_fields (w : U128) (h : fieldReserved w = 0#23) :
    assemble (fieldOpc w) (fieldWait w) (fieldArg32 w) (fieldArg64 w) = w := by
  have hr : ∀ i, 9 ≤ i → i < 32 → w.getLsbD i = false := by
    intro i h1 h2
    have h3 := congrArg (fun v => v.getLsbD (i - 9)) h
    simp [fieldReserved] at h3
    have h4 := h3 (by omega)
    rwa [show 9 + (i - 9) = i by omega] at h4
  unfold assemble fieldOpc fieldWait fieldArg32 fieldArg64
  apply BitVec.eq_of_getLsbD_eq
  intro i hi
  simp only [BitVec.getLsbD_append, BitVec.getLsbD_extractLsb']
  by_cases h1 : i < 8
  · simp [h1]; grind
  · by_cases h2 : i < 9
    · have h3 : i = 8 := by omega
      subst h3
      simp
    · by_cases h3 : i < 32
      · simp
        rw [hr i (by omega) h3]
        grind
      · simp
        grind

/-! ### What a decoded word looks like -/

theorem decodeArg32_ok {w : U128} {f : U32 → Instr} {i : Instr} (h : decodeArg32 w f = .ok i) :
    fieldWait w = false ∧ fieldArg64 w = 0#64 ∧ i = f (fieldArg32 w) := by
  unfold decodeArg32 at h
  grind

theorem decodePlain_ok {w : U128} {j i : Instr} (h : decodePlain w j = .ok i) :
    fieldWait w = false ∧ fieldArg32 w = 0#32 ∧ fieldArg64 w = 0#64 ∧ i = j := by
  unfold decodePlain at h
  grind

theorem decodeCheck_ok {w : U128} {i : Instr} (h : decodeCheck w = .ok i) :
    fieldArg32 w = 0#32 ∧ i = .check (fieldArg64 w) (fieldWait w) := by
  unfold decodeCheck at h
  grind

theorem decodeCsrRd_ok {w : U128} {i : Instr} (h : decodeCsrRd w = .ok i) :
    fieldWait w = false ∧ i = .csrRd (fieldArg32 w) (fieldArg64 w) := by
  unfold decodeCsrRd at h
  grind

/-- A message that decodes: its word decodes and its payload has the size that the word asks for. -/
theorem decodeMessage_ok {cfg : Params} {m : Message} {i : Instr} (h : decodeMessage cfg m = .ok i) :
    decodeWord m.word = .ok i ∧ m.payload.size = payloadBytesOf cfg m.word := by
  unfold decodeMessage at h
  split at h
  · cases h
  · rename_i j hj
    split at h
    · rename_i hs
      cases h
      exact ⟨hj, hs⟩
    · cases h

/-! ### Bytes -/

@[simp] theorem leBytes_length : ∀ (n v : Nat), (leBytes n v).length = n
  | 0, _ => rfl
  | n + 1, v => by simp [leBytes, leBytes_length n]

/-- The bytes of a number read back as its low bits. -/
theorem leValue_leBytes : ∀ (n v : Nat), leValue (leBytes n v) = v % 256 ^ n
  | 0, v => by simp [leBytes, leValue, Nat.mod_one]
  | n + 1, v => by
    simp only [leBytes, leValue, leValue_leBytes n (v / 256), BitVec.toNat_ofNat]
    have h : (256 : Nat) ^ (n + 1) = 256 * 256 ^ n := Nat.pow_succ'
    rw [h, Nat.mod_mul]

end Sys2Proof
end

