-- ==== Sys2Proof/Laws/State.lean ====
section
/-! SUPPORT. One lemma per field per update of the state, so that no later proof unfolds a record update; and what the
granted port, a ring and a side read after an update. -/

namespace Sys2Proof.Machine

/-! ### `updPortAt` -/

@[simp] theorem State.updPortAt_cfg (s : State) (p : Nat) (f : Port → Port) : (s.updPortAt p f).cfg = s.cfg := rfl
@[simp] theorem State.updPortAt_fifo (s : State) (p : Nat) (f : Port → Port) : (s.updPortAt p f).fifo = s.fifo := rfl
@[simp] theorem State.updPortAt_defer (s : State) (p : Nat) (f : Port → Port) : (s.updPortAt p f).defer = s.defer := rfl
@[simp] theorem State.updPortAt_token (s : State) (p : Nat) (f : Port → Port) : (s.updPortAt p f).token = s.token := rfl
@[simp] theorem State.updPortAt_acked (s : State) (p : Nat) (f : Port → Port) : (s.updPortAt p f).acked = s.acked := rfl
@[simp] theorem State.updPortAt_bitmap (s : State) (p : Nat) (f : Port → Port) : (s.updPortAt p f).bitmap = s.bitmap := rfl
@[simp] theorem State.updPortAt_numThreads (s : State) (p : Nat) (f : Port → Port) : (s.updPortAt p f).numThreads = s.numThreads := rfl
@[simp] theorem State.updPortAt_cnt (s : State) (p : Nat) (f : Port → Port) : (s.updPortAt p f).cnt = s.cnt := rfl
@[simp] theorem State.updPortAt_lockcnt (s : State) (p : Nat) (f : Port → Port) : (s.updPortAt p f).lockcnt = s.lockcnt := rfl
@[simp] theorem State.updPortAt_status (s : State) (p : Nat) (f : Port → Port) : (s.updPortAt p f).status = s.status := rfl
@[simp] theorem State.updPortAt_fault (s : State) (p : Nat) (f : Port → Port) : (s.updPortAt p f).fault = s.fault := rfl
@[simp] theorem State.updPortAt_ports (s : State) (p : Nat) (f : Port → Port) : (s.updPortAt p f).ports = s.ports.modify p f := rfl
@[simp] theorem State.updPortAt_freech (s : State) (p : Nat) (f : Port → Port) : (s.updPortAt p f).freech = s.freech := rfl
@[simp] theorem State.updPortAt_cur (s : State) (p : Nat) (f : Port → Port) : (s.updPortAt p f).cur = s.cur := rfl
@[simp] theorem State.updPortAt_sched (s : State) (p : Nat) (f : Port → Port) : (s.updPortAt p f).sched = s.sched := rfl
@[simp] theorem State.updPortAt_tick (s : State) (p : Nat) (f : Port → Port) : (s.updPortAt p f).tick = s.tick := rfl

/-! ### `updPort` -/

@[simp] theorem State.updPort_cfg (s : State) (f : Port → Port) : (s.updPort f).cfg = s.cfg := rfl
@[simp] theorem State.updPort_fifo (s : State) (f : Port → Port) : (s.updPort f).fifo = s.fifo := rfl
@[simp] theorem State.updPort_defer (s : State) (f : Port → Port) : (s.updPort f).defer = s.defer := rfl
@[simp] theorem State.updPort_token (s : State) (f : Port → Port) : (s.updPort f).token = s.token := rfl
@[simp] theorem State.updPort_acked (s : State) (f : Port → Port) : (s.updPort f).acked = s.acked := rfl
@[simp] theorem State.updPort_bitmap (s : State) (f : Port → Port) : (s.updPort f).bitmap = s.bitmap := rfl
@[simp] theorem State.updPort_numThreads (s : State) (f : Port → Port) : (s.updPort f).numThreads = s.numThreads := rfl
@[simp] theorem State.updPort_cnt (s : State) (f : Port → Port) : (s.updPort f).cnt = s.cnt := rfl
@[simp] theorem State.updPort_lockcnt (s : State) (f : Port → Port) : (s.updPort f).lockcnt = s.lockcnt := rfl
@[simp] theorem State.updPort_status (s : State) (f : Port → Port) : (s.updPort f).status = s.status := rfl
@[simp] theorem State.updPort_fault (s : State) (f : Port → Port) : (s.updPort f).fault = s.fault := rfl
@[simp] theorem State.updPort_ports (s : State) (f : Port → Port) : (s.updPort f).ports = s.ports.modify s.cur f := rfl
@[simp] theorem State.updPort_freech (s : State) (f : Port → Port) : (s.updPort f).freech = s.freech := rfl
@[simp] theorem State.updPort_cur (s : State) (f : Port → Port) : (s.updPort f).cur = s.cur := rfl
@[simp] theorem State.updPort_sched (s : State) (f : Port → Port) : (s.updPort f).sched = s.sched := rfl
@[simp] theorem State.updPort_tick (s : State) (f : Port → Port) : (s.updPort f).tick = s.tick := rfl

/-! ### `updLat` -/

@[simp] theorem State.updLat_cfg (s : State) (f : Latches → Latches) : (s.updLat f).cfg = s.cfg := rfl
@[simp] theorem State.updLat_fifo (s : State) (f : Latches → Latches) : (s.updLat f).fifo = s.fifo := rfl
@[simp] theorem State.updLat_defer (s : State) (f : Latches → Latches) : (s.updLat f).defer = s.defer := rfl
@[simp] theorem State.updLat_token (s : State) (f : Latches → Latches) : (s.updLat f).token = s.token := rfl
@[simp] theorem State.updLat_acked (s : State) (f : Latches → Latches) : (s.updLat f).acked = s.acked := rfl
@[simp] theorem State.updLat_bitmap (s : State) (f : Latches → Latches) : (s.updLat f).bitmap = s.bitmap := rfl
@[simp] theorem State.updLat_numThreads (s : State) (f : Latches → Latches) : (s.updLat f).numThreads = s.numThreads := rfl
@[simp] theorem State.updLat_cnt (s : State) (f : Latches → Latches) : (s.updLat f).cnt = s.cnt := rfl
@[simp] theorem State.updLat_lockcnt (s : State) (f : Latches → Latches) : (s.updLat f).lockcnt = s.lockcnt := rfl
@[simp] theorem State.updLat_status (s : State) (f : Latches → Latches) : (s.updLat f).status = s.status := rfl
@[simp] theorem State.updLat_fault (s : State) (f : Latches → Latches) : (s.updLat f).fault = s.fault := rfl
@[simp] theorem State.updLat_ports (s : State) (f : Latches → Latches) : (s.updLat f).ports = s.ports.modify s.cur fun q => { q with lat := f q.lat } := rfl
@[simp] theorem State.updLat_freech (s : State) (f : Latches → Latches) : (s.updLat f).freech = s.freech := rfl
@[simp] theorem State.updLat_cur (s : State) (f : Latches → Latches) : (s.updLat f).cur = s.cur := rfl
@[simp] theorem State.updLat_sched (s : State) (f : Latches → Latches) : (s.updLat f).sched = s.sched := rfl
@[simp] theorem State.updLat_tick (s : State) (f : Latches → Latches) : (s.updLat f).tick = s.tick := rfl

/-! ### `setPhase` -/

@[simp] theorem State.setPhase_cfg (s : State) (ph : Phase) : (s.setPhase ph).cfg = s.cfg := rfl
@[simp] theorem State.setPhase_fifo (s : State) (ph : Phase) : (s.setPhase ph).fifo = s.fifo := rfl
@[simp] theorem State.setPhase_defer (s : State) (ph : Phase) : (s.setPhase ph).defer = s.defer := rfl
@[simp] theorem State.setPhase_token (s : State) (ph : Phase) : (s.setPhase ph).token = s.token := rfl
@[simp] theorem State.setPhase_acked (s : State) (ph : Phase) : (s.setPhase ph).acked = s.acked := rfl
@[simp] theorem State.setPhase_bitmap (s : State) (ph : Phase) : (s.setPhase ph).bitmap = s.bitmap := rfl
@[simp] theorem State.setPhase_numThreads (s : State) (ph : Phase) : (s.setPhase ph).numThreads = s.numThreads := rfl
@[simp] theorem State.setPhase_cnt (s : State) (ph : Phase) : (s.setPhase ph).cnt = s.cnt := rfl
@[simp] theorem State.setPhase_lockcnt (s : State) (ph : Phase) : (s.setPhase ph).lockcnt = s.lockcnt := rfl
@[simp] theorem State.setPhase_status (s : State) (ph : Phase) : (s.setPhase ph).status = s.status := rfl
@[simp] theorem State.setPhase_fault (s : State) (ph : Phase) : (s.setPhase ph).fault = s.fault := rfl
@[simp] theorem State.setPhase_ports (s : State) (ph : Phase) : (s.setPhase ph).ports = s.ports.modify s.cur fun q => { q with phase := ph } := rfl
@[simp] theorem State.setPhase_freech (s : State) (ph : Phase) : (s.setPhase ph).freech = s.freech := rfl
@[simp] theorem State.setPhase_cur (s : State) (ph : Phase) : (s.setPhase ph).cur = s.cur := rfl
@[simp] theorem State.setPhase_sched (s : State) (ph : Phase) : (s.setPhase ph).sched = s.sched := rfl
@[simp] theorem State.setPhase_tick (s : State) (ph : Phase) : (s.setPhase ph).tick = s.tick := rfl

/-! ### `respondWith` -/

@[simp] theorem State.respondWith_cfg (s : State) (st : Status) (n : U32) (v : U64) (pl : List Element) : (s.respondWith st n v pl).cfg = s.cfg := rfl
@[simp] theorem State.respondWith_fifo (s : State) (st : Status) (n : U32) (v : U64) (pl : List Element) : (s.respondWith st n v pl).fifo = s.fifo := rfl
@[simp] theorem State.respondWith_defer (s : State) (st : Status) (n : U32) (v : U64) (pl : List Element) : (s.respondWith st n v pl).defer = s.defer := rfl
@[simp] theorem State.respondWith_token (s : State) (st : Status) (n : U32) (v : U64) (pl : List Element) : (s.respondWith st n v pl).token = s.token := rfl
@[simp] theorem State.respondWith_acked (s : State) (st : Status) (n : U32) (v : U64) (pl : List Element) : (s.respondWith st n v pl).acked = s.acked := rfl
@[simp] theorem State.respondWith_bitmap (s : State) (st : Status) (n : U32) (v : U64) (pl : List Element) : (s.respondWith st n v pl).bitmap = s.bitmap := rfl
@[simp] theorem State.respondWith_numThreads (s : State) (st : Status) (n : U32) (v : U64) (pl : List Element) : (s.respondWith st n v pl).numThreads = s.numThreads := rfl
@[simp] theorem State.respondWith_cnt (s : State) (st : Status) (n : U32) (v : U64) (pl : List Element) : (s.respondWith st n v pl).cnt = s.cnt := rfl
@[simp] theorem State.respondWith_lockcnt (s : State) (st : Status) (n : U32) (v : U64) (pl : List Element) : (s.respondWith st n v pl).lockcnt = s.lockcnt := rfl
@[simp] theorem State.respondWith_status (s : State) (st : Status) (n : U32) (v : U64) (pl : List Element) : (s.respondWith st n v pl).status = s.status := rfl
@[simp] theorem State.respondWith_fault (s : State) (st : Status) (n : U32) (v : U64) (pl : List Element) : (s.respondWith st n v pl).fault = s.fault := rfl
@[simp] theorem State.respondWith_freech (s : State) (st : Status) (n : U32) (v : U64) (pl : List Element) : (s.respondWith st n v pl).freech = s.freech := rfl
@[simp] theorem State.respondWith_cur (s : State) (st : Status) (n : U32) (v : U64) (pl : List Element) : (s.respondWith st n v pl).cur = s.cur := rfl
@[simp] theorem State.respondWith_sched (s : State) (st : Status) (n : U32) (v : U64) (pl : List Element) : (s.respondWith st n v pl).sched = s.sched := rfl
@[simp] theorem State.respondWith_tick (s : State) (st : Status) (n : U32) (v : U64) (pl : List Element) : (s.respondWith st n v pl).tick = s.tick := rfl

/-! ### `respond` -/

@[simp] theorem State.respond_cfg (s : State) (st : Status) (n : U32) (v : U64) : (s.respond st n v).cfg = s.cfg := rfl
@[simp] theorem State.respond_fifo (s : State) (st : Status) (n : U32) (v : U64) : (s.respond st n v).fifo = s.fifo := rfl
@[simp] theorem State.respond_defer (s : State) (st : Status) (n : U32) (v : U64) : (s.respond st n v).defer = s.defer := rfl
@[simp] theorem State.respond_token (s : State) (st : Status) (n : U32) (v : U64) : (s.respond st n v).token = s.token := rfl
@[simp] theorem State.respond_acked (s : State) (st : Status) (n : U32) (v : U64) : (s.respond st n v).acked = s.acked := rfl
@[simp] theorem State.respond_bitmap (s : State) (st : Status) (n : U32) (v : U64) : (s.respond st n v).bitmap = s.bitmap := rfl
@[simp] theorem State.respond_numThreads (s : State) (st : Status) (n : U32) (v : U64) : (s.respond st n v).numThreads = s.numThreads := rfl
@[simp] theorem State.respond_cnt (s : State) (st : Status) (n : U32) (v : U64) : (s.respond st n v).cnt = s.cnt := rfl
@[simp] theorem State.respond_lockcnt (s : State) (st : Status) (n : U32) (v : U64) : (s.respond st n v).lockcnt = s.lockcnt := rfl
@[simp] theorem State.respond_status (s : State) (st : Status) (n : U32) (v : U64) : (s.respond st n v).status = s.status := rfl
@[simp] theorem State.respond_fault (s : State) (st : Status) (n : U32) (v : U64) : (s.respond st n v).fault = s.fault := rfl
@[simp] theorem State.respond_freech (s : State) (st : Status) (n : U32) (v : U64) : (s.respond st n v).freech = s.freech := rfl
@[simp] theorem State.respond_cur (s : State) (st : Status) (n : U32) (v : U64) : (s.respond st n v).cur = s.cur := rfl
@[simp] theorem State.respond_sched (s : State) (st : Status) (n : U32) (v : U64) : (s.respond st n v).sched = s.sched := rfl
@[simp] theorem State.respond_tick (s : State) (st : Status) (n : U32) (v : U64) : (s.respond st n v).tick = s.tick := rfl

/-! ### `popCmd` -/

@[simp] theorem State.popCmd_cfg (s : State) : (s.popCmd).cfg = s.cfg := rfl
@[simp] theorem State.popCmd_fifo (s : State) : (s.popCmd).fifo = s.fifo := rfl
@[simp] theorem State.popCmd_defer (s : State) : (s.popCmd).defer = s.defer := rfl
@[simp] theorem State.popCmd_token (s : State) : (s.popCmd).token = s.token := rfl
@[simp] theorem State.popCmd_acked (s : State) : (s.popCmd).acked = s.acked := rfl
@[simp] theorem State.popCmd_bitmap (s : State) : (s.popCmd).bitmap = s.bitmap := rfl
@[simp] theorem State.popCmd_numThreads (s : State) : (s.popCmd).numThreads = s.numThreads := rfl
@[simp] theorem State.popCmd_cnt (s : State) : (s.popCmd).cnt = s.cnt := rfl
@[simp] theorem State.popCmd_lockcnt (s : State) : (s.popCmd).lockcnt = s.lockcnt := rfl
@[simp] theorem State.popCmd_status (s : State) : (s.popCmd).status = s.status := rfl
@[simp] theorem State.popCmd_fault (s : State) : (s.popCmd).fault = s.fault := rfl
@[simp] theorem State.popCmd_freech (s : State) : (s.popCmd).freech = s.freech := rfl
@[simp] theorem State.popCmd_cur (s : State) : (s.popCmd).cur = s.cur := rfl
@[simp] theorem State.popCmd_sched (s : State) : (s.popCmd).sched = s.sched := rfl
@[simp] theorem State.popCmd_tick (s : State) : (s.popCmd).tick = s.tick := rfl

/-! ### `latch` -/

@[simp] theorem State.latch_cfg (s : State) (m : Message) : (s.latch m).cfg = s.cfg := rfl
@[simp] theorem State.latch_fifo (s : State) (m : Message) : (s.latch m).fifo = s.fifo := rfl
@[simp] theorem State.latch_defer (s : State) (m : Message) : (s.latch m).defer = s.defer := rfl
@[simp] theorem State.latch_token (s : State) (m : Message) : (s.latch m).token = s.token := rfl
@[simp] theorem State.latch_acked (s : State) (m : Message) : (s.latch m).acked = s.acked := rfl
@[simp] theorem State.latch_bitmap (s : State) (m : Message) : (s.latch m).bitmap = s.bitmap := rfl
@[simp] theorem State.latch_numThreads (s : State) (m : Message) : (s.latch m).numThreads = s.numThreads := rfl
@[simp] theorem State.latch_cnt (s : State) (m : Message) : (s.latch m).cnt = s.cnt := rfl
@[simp] theorem State.latch_lockcnt (s : State) (m : Message) : (s.latch m).lockcnt = s.lockcnt := rfl
@[simp] theorem State.latch_status (s : State) (m : Message) : (s.latch m).status = s.status := rfl
@[simp] theorem State.latch_fault (s : State) (m : Message) : (s.latch m).fault = s.fault := rfl
@[simp] theorem State.latch_freech (s : State) (m : Message) : (s.latch m).freech = s.freech := rfl
@[simp] theorem State.latch_cur (s : State) (m : Message) : (s.latch m).cur = s.cur := rfl
@[simp] theorem State.latch_sched (s : State) (m : Message) : (s.latch m).sched = s.sched := rfl
@[simp] theorem State.latch_tick (s : State) (m : Message) : (s.latch m).tick = s.tick := rfl

/-! ### `emitFree` -/

@[simp] theorem State.emitFree_cfg (s : State) (m : FreeMsg) : (s.emitFree m).cfg = s.cfg := rfl
@[simp] theorem State.emitFree_fifo (s : State) (m : FreeMsg) : (s.emitFree m).fifo = s.fifo := rfl
@[simp] theorem State.emitFree_defer (s : State) (m : FreeMsg) : (s.emitFree m).defer = s.defer := rfl
@[simp] theorem State.emitFree_token (s : State) (m : FreeMsg) : (s.emitFree m).token = s.token := rfl
@[simp] theorem State.emitFree_acked (s : State) (m : FreeMsg) : (s.emitFree m).acked = s.acked := rfl
@[simp] theorem State.emitFree_bitmap (s : State) (m : FreeMsg) : (s.emitFree m).bitmap = s.bitmap := rfl
@[simp] theorem State.emitFree_numThreads (s : State) (m : FreeMsg) : (s.emitFree m).numThreads = s.numThreads := rfl
@[simp] theorem State.emitFree_cnt (s : State) (m : FreeMsg) : (s.emitFree m).cnt = s.cnt := rfl
@[simp] theorem State.emitFree_lockcnt (s : State) (m : FreeMsg) : (s.emitFree m).lockcnt = s.lockcnt := rfl
@[simp] theorem State.emitFree_status (s : State) (m : FreeMsg) : (s.emitFree m).status = s.status := rfl
@[simp] theorem State.emitFree_fault (s : State) (m : FreeMsg) : (s.emitFree m).fault = s.fault := rfl
@[simp] theorem State.emitFree_ports (s : State) (m : FreeMsg) : (s.emitFree m).ports = s.ports := rfl
@[simp] theorem State.emitFree_freech (s : State) (m : FreeMsg) : (s.emitFree m).freech = s.freech ++ [m] := rfl
@[simp] theorem State.emitFree_cur (s : State) (m : FreeMsg) : (s.emitFree m).cur = s.cur := rfl
@[simp] theorem State.emitFree_sched (s : State) (m : FreeMsg) : (s.emitFree m).sched = s.sched := rfl
@[simp] theorem State.emitFree_tick (s : State) (m : FreeMsg) : (s.emitFree m).tick = s.tick := rfl

/-! ### `setRegd` -/

@[simp] theorem State.setRegd_cfg (s : State) (i : Nat) : (s.setRegd i).cfg = s.cfg := rfl
@[simp] theorem State.setRegd_fifo (s : State) (i : Nat) : (s.setRegd i).fifo = s.fifo := rfl
@[simp] theorem State.setRegd_defer (s : State) (i : Nat) : (s.setRegd i).defer = s.defer := rfl
@[simp] theorem State.setRegd_token (s : State) (i : Nat) : (s.setRegd i).token = s.token := rfl
@[simp] theorem State.setRegd_acked (s : State) (i : Nat) : (s.setRegd i).acked = s.acked := rfl
@[simp] theorem State.setRegd_bitmap (s : State) (i : Nat) : (s.setRegd i).bitmap = s.bitmap.modify (i / 64) fun w => w ||| bit64 (i % 64) := rfl
@[simp] theorem State.setRegd_numThreads (s : State) (i : Nat) : (s.setRegd i).numThreads = s.numThreads := rfl
@[simp] theorem State.setRegd_cnt (s : State) (i : Nat) : (s.setRegd i).cnt = s.cnt := rfl
@[simp] theorem State.setRegd_lockcnt (s : State) (i : Nat) : (s.setRegd i).lockcnt = s.lockcnt := rfl
@[simp] theorem State.setRegd_status (s : State) (i : Nat) : (s.setRegd i).status = s.status := rfl
@[simp] theorem State.setRegd_fault (s : State) (i : Nat) : (s.setRegd i).fault = s.fault := rfl
@[simp] theorem State.setRegd_ports (s : State) (i : Nat) : (s.setRegd i).ports = s.ports := rfl
@[simp] theorem State.setRegd_freech (s : State) (i : Nat) : (s.setRegd i).freech = s.freech := rfl
@[simp] theorem State.setRegd_cur (s : State) (i : Nat) : (s.setRegd i).cur = s.cur := rfl
@[simp] theorem State.setRegd_sched (s : State) (i : Nat) : (s.setRegd i).sched = s.sched := rfl
@[simp] theorem State.setRegd_tick (s : State) (i : Nat) : (s.setRegd i).tick = s.tick := rfl

/-! ### `clearRegd` -/

@[simp] theorem State.clearRegd_cfg (s : State) (i : Nat) : (s.clearRegd i).cfg = s.cfg := rfl
@[simp] theorem State.clearRegd_fifo (s : State) (i : Nat) : (s.clearRegd i).fifo = s.fifo := rfl
@[simp] theorem State.clearRegd_defer (s : State) (i : Nat) : (s.clearRegd i).defer = s.defer := rfl
@[simp] theorem State.clearRegd_token (s : State) (i : Nat) : (s.clearRegd i).token = s.token := rfl
@[simp] theorem State.clearRegd_acked (s : State) (i : Nat) : (s.clearRegd i).acked = s.acked := rfl
@[simp] theorem State.clearRegd_bitmap (s : State) (i : Nat) : (s.clearRegd i).bitmap = s.bitmap.modify (i / 64) fun w => w &&& ~~~(bit64 (i % 64)) := rfl
@[simp] theorem State.clearRegd_numThreads (s : State) (i : Nat) : (s.clearRegd i).numThreads = s.numThreads := rfl
@[simp] theorem State.clearRegd_cnt (s : State) (i : Nat) : (s.clearRegd i).cnt = s.cnt := rfl
@[simp] theorem State.clearRegd_lockcnt (s : State) (i : Nat) : (s.clearRegd i).lockcnt = s.lockcnt := rfl
@[simp] theorem State.clearRegd_status (s : State) (i : Nat) : (s.clearRegd i).status = s.status := rfl
@[simp] theorem State.clearRegd_fault (s : State) (i : Nat) : (s.clearRegd i).fault = s.fault := rfl
@[simp] theorem State.clearRegd_ports (s : State) (i : Nat) : (s.clearRegd i).ports = s.ports := rfl
@[simp] theorem State.clearRegd_freech (s : State) (i : Nat) : (s.clearRegd i).freech = s.freech := rfl
@[simp] theorem State.clearRegd_cur (s : State) (i : Nat) : (s.clearRegd i).cur = s.cur := rfl
@[simp] theorem State.clearRegd_sched (s : State) (i : Nat) : (s.clearRegd i).sched = s.sched := rfl
@[simp] theorem State.clearRegd_tick (s : State) (i : Nat) : (s.clearRegd i).tick = s.tick := rfl

/-! ### `setCnt` -/

@[simp] theorem State.setCnt_cfg (s : State) (i : Nat) (v : U64) : (s.setCnt i v).cfg = s.cfg := rfl
@[simp] theorem State.setCnt_fifo (s : State) (i : Nat) (v : U64) : (s.setCnt i v).fifo = s.fifo := rfl
@[simp] theorem State.setCnt_defer (s : State) (i : Nat) (v : U64) : (s.setCnt i v).defer = s.defer := rfl
@[simp] theorem State.setCnt_token (s : State) (i : Nat) (v : U64) : (s.setCnt i v).token = s.token := rfl
@[simp] theorem State.setCnt_acked (s : State) (i : Nat) (v : U64) : (s.setCnt i v).acked = s.acked := rfl
@[simp] theorem State.setCnt_bitmap (s : State) (i : Nat) (v : U64) : (s.setCnt i v).bitmap = s.bitmap := rfl
@[simp] theorem State.setCnt_numThreads (s : State) (i : Nat) (v : U64) : (s.setCnt i v).numThreads = s.numThreads := rfl
@[simp] theorem State.setCnt_cnt (s : State) (i : Nat) (v : U64) : (s.setCnt i v).cnt = s.cnt.set i v := rfl
@[simp] theorem State.setCnt_lockcnt (s : State) (i : Nat) (v : U64) : (s.setCnt i v).lockcnt = s.lockcnt := rfl
@[simp] theorem State.setCnt_status (s : State) (i : Nat) (v : U64) : (s.setCnt i v).status = s.status := rfl
@[simp] theorem State.setCnt_fault (s : State) (i : Nat) (v : U64) : (s.setCnt i v).fault = s.fault := rfl
@[simp] theorem State.setCnt_ports (s : State) (i : Nat) (v : U64) : (s.setCnt i v).ports = s.ports := rfl
@[simp] theorem State.setCnt_freech (s : State) (i : Nat) (v : U64) : (s.setCnt i v).freech = s.freech := rfl
@[simp] theorem State.setCnt_cur (s : State) (i : Nat) (v : U64) : (s.setCnt i v).cur = s.cur := rfl
@[simp] theorem State.setCnt_sched (s : State) (i : Nat) (v : U64) : (s.setCnt i v).sched = s.sched := rfl
@[simp] theorem State.setCnt_tick (s : State) (i : Nat) (v : U64) : (s.setCnt i v).tick = s.tick := rfl

/-! ### `setLock` -/

@[simp] theorem State.setLock_cfg (s : State) (i : Nat) (v : U32) : (s.setLock i v).cfg = s.cfg := rfl
@[simp] theorem State.setLock_fifo (s : State) (i : Nat) (v : U32) : (s.setLock i v).fifo = s.fifo := rfl
@[simp] theorem State.setLock_defer (s : State) (i : Nat) (v : U32) : (s.setLock i v).defer = s.defer := rfl
@[simp] theorem State.setLock_token (s : State) (i : Nat) (v : U32) : (s.setLock i v).token = s.token := rfl
@[simp] theorem State.setLock_acked (s : State) (i : Nat) (v : U32) : (s.setLock i v).acked = s.acked := rfl
@[simp] theorem State.setLock_bitmap (s : State) (i : Nat) (v : U32) : (s.setLock i v).bitmap = s.bitmap := rfl
@[simp] theorem State.setLock_numThreads (s : State) (i : Nat) (v : U32) : (s.setLock i v).numThreads = s.numThreads := rfl
@[simp] theorem State.setLock_cnt (s : State) (i : Nat) (v : U32) : (s.setLock i v).cnt = s.cnt := rfl
@[simp] theorem State.setLock_lockcnt (s : State) (i : Nat) (v : U32) : (s.setLock i v).lockcnt = s.lockcnt.set i v := rfl
@[simp] theorem State.setLock_status (s : State) (i : Nat) (v : U32) : (s.setLock i v).status = s.status := rfl
@[simp] theorem State.setLock_fault (s : State) (i : Nat) (v : U32) : (s.setLock i v).fault = s.fault := rfl
@[simp] theorem State.setLock_ports (s : State) (i : Nat) (v : U32) : (s.setLock i v).ports = s.ports := rfl
@[simp] theorem State.setLock_freech (s : State) (i : Nat) (v : U32) : (s.setLock i v).freech = s.freech := rfl
@[simp] theorem State.setLock_cur (s : State) (i : Nat) (v : U32) : (s.setLock i v).cur = s.cur := rfl
@[simp] theorem State.setLock_sched (s : State) (i : Nat) (v : U32) : (s.setLock i v).sched = s.sched := rfl
@[simp] theorem State.setLock_tick (s : State) (i : Nat) (v : U32) : (s.setLock i v).tick = s.tick := rfl

/-! ### `setNumThreads` -/

@[simp] theorem State.setNumThreads_cfg (s : State) (v : U32) : (s.setNumThreads v).cfg = s.cfg := rfl
@[simp] theorem State.setNumThreads_fifo (s : State) (v : U32) : (s.setNumThreads v).fifo = s.fifo := rfl
@[simp] theorem State.setNumThreads_defer (s : State) (v : U32) : (s.setNumThreads v).defer = s.defer := rfl
@[simp] theorem State.setNumThreads_token (s : State) (v : U32) : (s.setNumThreads v).token = s.token := rfl
@[simp] theorem State.setNumThreads_acked (s : State) (v : U32) : (s.setNumThreads v).acked = s.acked := rfl
@[simp] theorem State.setNumThreads_bitmap (s : State) (v : U32) : (s.setNumThreads v).bitmap = s.bitmap := rfl
@[simp] theorem State.setNumThreads_numThreads (s : State) (v : U32) : (s.setNumThreads v).numThreads = v := rfl
@[simp] theorem State.setNumThreads_cnt (s : State) (v : U32) : (s.setNumThreads v).cnt = s.cnt := rfl
@[simp] theorem State.setNumThreads_lockcnt (s : State) (v : U32) : (s.setNumThreads v).lockcnt = s.lockcnt := rfl
@[simp] theorem State.setNumThreads_status (s : State) (v : U32) : (s.setNumThreads v).status = s.status := rfl
@[simp] theorem State.setNumThreads_fault (s : State) (v : U32) : (s.setNumThreads v).fault = s.fault := rfl
@[simp] theorem State.setNumThreads_ports (s : State) (v : U32) : (s.setNumThreads v).ports = s.ports := rfl
@[simp] theorem State.setNumThreads_freech (s : State) (v : U32) : (s.setNumThreads v).freech = s.freech := rfl
@[simp] theorem State.setNumThreads_cur (s : State) (v : U32) : (s.setNumThreads v).cur = s.cur := rfl
@[simp] theorem State.setNumThreads_sched (s : State) (v : U32) : (s.setNumThreads v).sched = s.sched := rfl
@[simp] theorem State.setNumThreads_tick (s : State) (v : U32) : (s.setNumThreads v).tick = s.tick := rfl

/-! ### `setToken` -/

@[simp] theorem State.setToken_cfg (s : State) (v : U64) : (s.setToken v).cfg = s.cfg := rfl
@[simp] theorem State.setToken_fifo (s : State) (v : U64) : (s.setToken v).fifo = s.fifo := rfl
@[simp] theorem State.setToken_defer (s : State) (v : U64) : (s.setToken v).defer = s.defer := rfl
@[simp] theorem State.setToken_token (s : State) (v : U64) : (s.setToken v).token = v := rfl
@[simp] theorem State.setToken_acked (s : State) (v : U64) : (s.setToken v).acked = s.acked := rfl
@[simp] theorem State.setToken_bitmap (s : State) (v : U64) : (s.setToken v).bitmap = s.bitmap := rfl
@[simp] theorem State.setToken_numThreads (s : State) (v : U64) : (s.setToken v).numThreads = s.numThreads := rfl
@[simp] theorem State.setToken_cnt (s : State) (v : U64) : (s.setToken v).cnt = s.cnt := rfl
@[simp] theorem State.setToken_lockcnt (s : State) (v : U64) : (s.setToken v).lockcnt = s.lockcnt := rfl
@[simp] theorem State.setToken_status (s : State) (v : U64) : (s.setToken v).status = s.status := rfl
@[simp] theorem State.setToken_fault (s : State) (v : U64) : (s.setToken v).fault = s.fault := rfl
@[simp] theorem State.setToken_ports (s : State) (v : U64) : (s.setToken v).ports = s.ports := rfl
@[simp] theorem State.setToken_freech (s : State) (v : U64) : (s.setToken v).freech = s.freech := rfl
@[simp] theorem State.setToken_cur (s : State) (v : U64) : (s.setToken v).cur = s.cur := rfl
@[simp] theorem State.setToken_sched (s : State) (v : U64) : (s.setToken v).sched = s.sched := rfl
@[simp] theorem State.setToken_tick (s : State) (v : U64) : (s.setToken v).tick = s.tick := rfl

/-! ### `maxAcked` -/

@[simp] theorem State.maxAcked_cfg (s : State) (v : U64) : (s.maxAcked v).cfg = s.cfg := rfl
@[simp] theorem State.maxAcked_fifo (s : State) (v : U64) : (s.maxAcked v).fifo = s.fifo := rfl
@[simp] theorem State.maxAcked_defer (s : State) (v : U64) : (s.maxAcked v).defer = s.defer := rfl
@[simp] theorem State.maxAcked_token (s : State) (v : U64) : (s.maxAcked v).token = s.token := rfl
@[simp] theorem State.maxAcked_acked (s : State) (v : U64) : (s.maxAcked v).acked = if s.acked < v then v else s.acked := rfl
@[simp] theorem State.maxAcked_bitmap (s : State) (v : U64) : (s.maxAcked v).bitmap = s.bitmap := rfl
@[simp] theorem State.maxAcked_numThreads (s : State) (v : U64) : (s.maxAcked v).numThreads = s.numThreads := rfl
@[simp] theorem State.maxAcked_cnt (s : State) (v : U64) : (s.maxAcked v).cnt = s.cnt := rfl
@[simp] theorem State.maxAcked_lockcnt (s : State) (v : U64) : (s.maxAcked v).lockcnt = s.lockcnt := rfl
@[simp] theorem State.maxAcked_status (s : State) (v : U64) : (s.maxAcked v).status = s.status := rfl
@[simp] theorem State.maxAcked_fault (s : State) (v : U64) : (s.maxAcked v).fault = s.fault := rfl
@[simp] theorem State.maxAcked_ports (s : State) (v : U64) : (s.maxAcked v).ports = s.ports := rfl
@[simp] theorem State.maxAcked_freech (s : State) (v : U64) : (s.maxAcked v).freech = s.freech := rfl
@[simp] theorem State.maxAcked_cur (s : State) (v : U64) : (s.maxAcked v).cur = s.cur := rfl
@[simp] theorem State.maxAcked_sched (s : State) (v : U64) : (s.maxAcked v).sched = s.sched := rfl
@[simp] theorem State.maxAcked_tick (s : State) (v : U64) : (s.maxAcked v).tick = s.tick := rfl

/-! ### `setFault` -/

@[simp] theorem State.setFault_cfg (s : State) (f : FaultBit) : (s.setFault f).cfg = s.cfg := rfl
@[simp] theorem State.setFault_fifo (s : State) (f : FaultBit) : (s.setFault f).fifo = s.fifo := rfl
@[simp] theorem State.setFault_defer (s : State) (f : FaultBit) : (s.setFault f).defer = s.defer := rfl
@[simp] theorem State.setFault_token (s : State) (f : FaultBit) : (s.setFault f).token = s.token := rfl
@[simp] theorem State.setFault_acked (s : State) (f : FaultBit) : (s.setFault f).acked = s.acked := rfl
@[simp] theorem State.setFault_bitmap (s : State) (f : FaultBit) : (s.setFault f).bitmap = s.bitmap := rfl
@[simp] theorem State.setFault_numThreads (s : State) (f : FaultBit) : (s.setFault f).numThreads = s.numThreads := rfl
@[simp] theorem State.setFault_cnt (s : State) (f : FaultBit) : (s.setFault f).cnt = s.cnt := rfl
@[simp] theorem State.setFault_lockcnt (s : State) (f : FaultBit) : (s.setFault f).lockcnt = s.lockcnt := rfl
@[simp] theorem State.setFault_status (s : State) (f : FaultBit) : (s.setFault f).status = s.status := rfl
@[simp] theorem State.setFault_fault (s : State) (f : FaultBit) : (s.setFault f).fault = s.fault ||| f.mask := rfl
@[simp] theorem State.setFault_ports (s : State) (f : FaultBit) : (s.setFault f).ports = s.ports := rfl
@[simp] theorem State.setFault_freech (s : State) (f : FaultBit) : (s.setFault f).freech = s.freech := rfl
@[simp] theorem State.setFault_cur (s : State) (f : FaultBit) : (s.setFault f).cur = s.cur := rfl
@[simp] theorem State.setFault_sched (s : State) (f : FaultBit) : (s.setFault f).sched = s.sched := rfl
@[simp] theorem State.setFault_tick (s : State) (f : FaultBit) : (s.setFault f).tick = s.tick := rfl

/-! ### `killDq` -/

@[simp] theorem State.killDq_cfg (s : State) : (s.killDq).cfg = s.cfg := rfl
@[simp] theorem State.killDq_fifo (s : State) : (s.killDq).fifo = s.fifo := rfl
@[simp] theorem State.killDq_defer (s : State) : (s.killDq).defer = s.defer := rfl
@[simp] theorem State.killDq_token (s : State) : (s.killDq).token = s.token := rfl
@[simp] theorem State.killDq_acked (s : State) : (s.killDq).acked = s.acked := rfl
@[simp] theorem State.killDq_bitmap (s : State) : (s.killDq).bitmap = s.bitmap := rfl
@[simp] theorem State.killDq_numThreads (s : State) : (s.killDq).numThreads = s.numThreads := rfl
@[simp] theorem State.killDq_cnt (s : State) : (s.killDq).cnt = s.cnt := rfl
@[simp] theorem State.killDq_lockcnt (s : State) : (s.killDq).lockcnt = s.lockcnt := rfl
@[simp] theorem State.killDq_status (s : State) : (s.killDq).status = s.status &&& ~~~(8#64) := rfl
@[simp] theorem State.killDq_fault (s : State) : (s.killDq).fault = s.fault := rfl
@[simp] theorem State.killDq_ports (s : State) : (s.killDq).ports = s.ports := rfl
@[simp] theorem State.killDq_freech (s : State) : (s.killDq).freech = s.freech := rfl
@[simp] theorem State.killDq_cur (s : State) : (s.killDq).cur = s.cur := rfl
@[simp] theorem State.killDq_sched (s : State) : (s.killDq).sched = s.sched := rfl
@[simp] theorem State.killDq_tick (s : State) : (s.killDq).tick = s.tick := rfl

/-! ### `setRing` -/

@[simp] theorem State.setRing_cfg (s : State) (r : RingId) (x : Ring) : (s.setRing r x).cfg = s.cfg := by
  cases r <;> rfl
@[simp] theorem State.setRing_token (s : State) (r : RingId) (x : Ring) : (s.setRing r x).token = s.token := by
  cases r <;> rfl
@[simp] theorem State.setRing_acked (s : State) (r : RingId) (x : Ring) : (s.setRing r x).acked = s.acked := by
  cases r <;> rfl
@[simp] theorem State.setRing_bitmap (s : State) (r : RingId) (x : Ring) : (s.setRing r x).bitmap = s.bitmap := by
  cases r <;> rfl
@[simp] theorem State.setRing_numThreads (s : State) (r : RingId) (x : Ring) : (s.setRing r x).numThreads = s.numThreads := by
  cases r <;> rfl
@[simp] theorem State.setRing_cnt (s : State) (r : RingId) (x : Ring) : (s.setRing r x).cnt = s.cnt := by
  cases r <;> rfl
@[simp] theorem State.setRing_lockcnt (s : State) (r : RingId) (x : Ring) : (s.setRing r x).lockcnt = s.lockcnt := by
  cases r <;> rfl
@[simp] theorem State.setRing_status (s : State) (r : RingId) (x : Ring) : (s.setRing r x).status = s.status := by
  cases r <;> rfl
@[simp] theorem State.setRing_fault (s : State) (r : RingId) (x : Ring) : (s.setRing r x).fault = s.fault := by
  cases r <;> rfl
@[simp] theorem State.setRing_ports (s : State) (r : RingId) (x : Ring) : (s.setRing r x).ports = s.ports := by
  cases r <;> rfl
@[simp] theorem State.setRing_freech (s : State) (r : RingId) (x : Ring) : (s.setRing r x).freech = s.freech := by
  cases r <;> rfl
@[simp] theorem State.setRing_cur (s : State) (r : RingId) (x : Ring) : (s.setRing r x).cur = s.cur := by
  cases r <;> rfl
@[simp] theorem State.setRing_sched (s : State) (r : RingId) (x : Ring) : (s.setRing r x).sched = s.sched := by
  cases r <;> rfl
@[simp] theorem State.setRing_tick (s : State) (r : RingId) (x : Ring) : (s.setRing r x).tick = s.tick := by
  cases r <;> rfl

/-! ### `setSide` -/

@[simp] theorem State.setSide_cfg (s : State) (r : RingId) (sd : Side) (w : SideRegs) : (s.setSide r sd w).cfg = s.cfg := by
  cases r <;> rfl
@[simp] theorem State.setSide_token (s : State) (r : RingId) (sd : Side) (w : SideRegs) : (s.setSide r sd w).token = s.token := by
  cases r <;> rfl
@[simp] theorem State.setSide_acked (s : State) (r : RingId) (sd : Side) (w : SideRegs) : (s.setSide r sd w).acked = s.acked := by
  cases r <;> rfl
@[simp] theorem State.setSide_bitmap (s : State) (r : RingId) (sd : Side) (w : SideRegs) : (s.setSide r sd w).bitmap = s.bitmap := by
  cases r <;> rfl
@[simp] theorem State.setSide_numThreads (s : State) (r : RingId) (sd : Side) (w : SideRegs) : (s.setSide r sd w).numThreads = s.numThreads := by
  cases r <;> rfl
@[simp] theorem State.setSide_cnt (s : State) (r : RingId) (sd : Side) (w : SideRegs) : (s.setSide r sd w).cnt = s.cnt := by
  cases r <;> rfl
@[simp] theorem State.setSide_lockcnt (s : State) (r : RingId) (sd : Side) (w : SideRegs) : (s.setSide r sd w).lockcnt = s.lockcnt := by
  cases r <;> rfl
@[simp] theorem State.setSide_status (s : State) (r : RingId) (sd : Side) (w : SideRegs) : (s.setSide r sd w).status = s.status := by
  cases r <;> rfl
@[simp] theorem State.setSide_fault (s : State) (r : RingId) (sd : Side) (w : SideRegs) : (s.setSide r sd w).fault = s.fault := by
  cases r <;> rfl
@[simp] theorem State.setSide_ports (s : State) (r : RingId) (sd : Side) (w : SideRegs) : (s.setSide r sd w).ports = s.ports := by
  cases r <;> rfl
@[simp] theorem State.setSide_freech (s : State) (r : RingId) (sd : Side) (w : SideRegs) : (s.setSide r sd w).freech = s.freech := by
  cases r <;> rfl
@[simp] theorem State.setSide_cur (s : State) (r : RingId) (sd : Side) (w : SideRegs) : (s.setSide r sd w).cur = s.cur := by
  cases r <;> rfl
@[simp] theorem State.setSide_sched (s : State) (r : RingId) (sd : Side) (w : SideRegs) : (s.setSide r sd w).sched = s.sched := by
  cases r <;> rfl
@[simp] theorem State.setSide_tick (s : State) (r : RingId) (sd : Side) (w : SideRegs) : (s.setSide r sd w).tick = s.tick := by
  cases r <;> rfl

/-! ### `setA` -/

@[simp] theorem State.setA_cfg (s : State) (r : RingId) (sd : Side) (w : U64) : (s.setA r sd w).cfg = s.cfg := by
  cases r <;> rfl
@[simp] theorem State.setA_token (s : State) (r : RingId) (sd : Side) (w : U64) : (s.setA r sd w).token = s.token := by
  cases r <;> rfl
@[simp] theorem State.setA_acked (s : State) (r : RingId) (sd : Side) (w : U64) : (s.setA r sd w).acked = s.acked := by
  cases r <;> rfl
@[simp] theorem State.setA_bitmap (s : State) (r : RingId) (sd : Side) (w : U64) : (s.setA r sd w).bitmap = s.bitmap := by
  cases r <;> rfl
@[simp] theorem State.setA_numThreads (s : State) (r : RingId) (sd : Side) (w : U64) : (s.setA r sd w).numThreads = s.numThreads := by
  cases r <;> rfl
@[simp] theorem State.setA_cnt (s : State) (r : RingId) (sd : Side) (w : U64) : (s.setA r sd w).cnt = s.cnt := by
  cases r <;> rfl
@[simp] theorem State.setA_lockcnt (s : State) (r : RingId) (sd : Side) (w : U64) : (s.setA r sd w).lockcnt = s.lockcnt := by
  cases r <;> rfl
@[simp] theorem State.setA_status (s : State) (r : RingId) (sd : Side) (w : U64) : (s.setA r sd w).status = s.status := by
  cases r <;> rfl
@[simp] theorem State.setA_fault (s : State) (r : RingId) (sd : Side) (w : U64) : (s.setA r sd w).fault = s.fault := by
  cases r <;> rfl
@[simp] theorem State.setA_ports (s : State) (r : RingId) (sd : Side) (w : U64) : (s.setA r sd w).ports = s.ports := by
  cases r <;> rfl
@[simp] theorem State.setA_freech (s : State) (r : RingId) (sd : Side) (w : U64) : (s.setA r sd w).freech = s.freech := by
  cases r <;> rfl
@[simp] theorem State.setA_cur (s : State) (r : RingId) (sd : Side) (w : U64) : (s.setA r sd w).cur = s.cur := by
  cases r <;> rfl
@[simp] theorem State.setA_sched (s : State) (r : RingId) (sd : Side) (w : U64) : (s.setA r sd w).sched = s.sched := by
  cases r <;> rfl
@[simp] theorem State.setA_tick (s : State) (r : RingId) (sd : Side) (w : U64) : (s.setA r sd w).tick = s.tick := by
  cases r <;> rfl

/-! ### `setB` -/

@[simp] theorem State.setB_cfg (s : State) (r : RingId) (sd : Side) (w : U64) : (s.setB r sd w).cfg = s.cfg := by
  cases r <;> rfl
@[simp] theorem State.setB_token (s : State) (r : RingId) (sd : Side) (w : U64) : (s.setB r sd w).token = s.token := by
  cases r <;> rfl
@[simp] theorem State.setB_acked (s : State) (r : RingId) (sd : Side) (w : U64) : (s.setB r sd w).acked = s.acked := by
  cases r <;> rfl
@[simp] theorem State.setB_bitmap (s : State) (r : RingId) (sd : Side) (w : U64) : (s.setB r sd w).bitmap = s.bitmap := by
  cases r <;> rfl
@[simp] theorem State.setB_numThreads (s : State) (r : RingId) (sd : Side) (w : U64) : (s.setB r sd w).numThreads = s.numThreads := by
  cases r <;> rfl
@[simp] theorem State.setB_cnt (s : State) (r : RingId) (sd : Side) (w : U64) : (s.setB r sd w).cnt = s.cnt := by
  cases r <;> rfl
@[simp] theorem State.setB_lockcnt (s : State) (r : RingId) (sd : Side) (w : U64) : (s.setB r sd w).lockcnt = s.lockcnt := by
  cases r <;> rfl
@[simp] theorem State.setB_status (s : State) (r : RingId) (sd : Side) (w : U64) : (s.setB r sd w).status = s.status := by
  cases r <;> rfl
@[simp] theorem State.setB_fault (s : State) (r : RingId) (sd : Side) (w : U64) : (s.setB r sd w).fault = s.fault := by
  cases r <;> rfl
@[simp] theorem State.setB_ports (s : State) (r : RingId) (sd : Side) (w : U64) : (s.setB r sd w).ports = s.ports := by
  cases r <;> rfl
@[simp] theorem State.setB_freech (s : State) (r : RingId) (sd : Side) (w : U64) : (s.setB r sd w).freech = s.freech := by
  cases r <;> rfl
@[simp] theorem State.setB_cur (s : State) (r : RingId) (sd : Side) (w : U64) : (s.setB r sd w).cur = s.cur := by
  cases r <;> rfl
@[simp] theorem State.setB_sched (s : State) (r : RingId) (sd : Side) (w : U64) : (s.setB r sd w).sched = s.sched := by
  cases r <;> rfl
@[simp] theorem State.setB_tick (s : State) (r : RingId) (sd : Side) (w : U64) : (s.setB r sd w).tick = s.tick := by
  cases r <;> rfl

/-! ### `setSown` -/

@[simp] theorem State.setSown_cfg (s : State) (r : RingId) (sd : Side) (o : Owner) : (s.setSown r sd o).cfg = s.cfg := by
  cases r <;> rfl
@[simp] theorem State.setSown_token (s : State) (r : RingId) (sd : Side) (o : Owner) : (s.setSown r sd o).token = s.token := by
  cases r <;> rfl
@[simp] theorem State.setSown_acked (s : State) (r : RingId) (sd : Side) (o : Owner) : (s.setSown r sd o).acked = s.acked := by
  cases r <;> rfl
@[simp] theorem State.setSown_bitmap (s : State) (r : RingId) (sd : Side) (o : Owner) : (s.setSown r sd o).bitmap = s.bitmap := by
  cases r <;> rfl
@[simp] theorem State.setSown_numThreads (s : State) (r : RingId) (sd : Side) (o : Owner) : (s.setSown r sd o).numThreads = s.numThreads := by
  cases r <;> rfl
@[simp] theorem State.setSown_cnt (s : State) (r : RingId) (sd : Side) (o : Owner) : (s.setSown r sd o).cnt = s.cnt := by
  cases r <;> rfl
@[simp] theorem State.setSown_lockcnt (s : State) (r : RingId) (sd : Side) (o : Owner) : (s.setSown r sd o).lockcnt = s.lockcnt := by
  cases r <;> rfl
@[simp] theorem State.setSown_status (s : State) (r : RingId) (sd : Side) (o : Owner) : (s.setSown r sd o).status = s.status := by
  cases r <;> rfl
@[simp] theorem State.setSown_fault (s : State) (r : RingId) (sd : Side) (o : Owner) : (s.setSown r sd o).fault = s.fault := by
  cases r <;> rfl
@[simp] theorem State.setSown_ports (s : State) (r : RingId) (sd : Side) (o : Owner) : (s.setSown r sd o).ports = s.ports := by
  cases r <;> rfl
@[simp] theorem State.setSown_freech (s : State) (r : RingId) (sd : Side) (o : Owner) : (s.setSown r sd o).freech = s.freech := by
  cases r <;> rfl
@[simp] theorem State.setSown_cur (s : State) (r : RingId) (sd : Side) (o : Owner) : (s.setSown r sd o).cur = s.cur := by
  cases r <;> rfl
@[simp] theorem State.setSown_sched (s : State) (r : RingId) (sd : Side) (o : Owner) : (s.setSown r sd o).sched = s.sched := by
  cases r <;> rfl
@[simp] theorem State.setSown_tick (s : State) (r : RingId) (sd : Side) (o : Owner) : (s.setSown r sd o).tick = s.tick := by
  cases r <;> rfl

/-! ### `storeHead` -/

@[simp] theorem State.storeHead_cfg (s : State) (r : RingId) (sd : Side) (v : U32) : (s.storeHead r sd v).cfg = s.cfg := by
  cases r <;> rfl
@[simp] theorem State.storeHead_token (s : State) (r : RingId) (sd : Side) (v : U32) : (s.storeHead r sd v).token = s.token := by
  cases r <;> rfl
@[simp] theorem State.storeHead_acked (s : State) (r : RingId) (sd : Side) (v : U32) : (s.storeHead r sd v).acked = s.acked := by
  cases r <;> rfl
@[simp] theorem State.storeHead_bitmap (s : State) (r : RingId) (sd : Side) (v : U32) : (s.storeHead r sd v).bitmap = s.bitmap := by
  cases r <;> rfl
@[simp] theorem State.storeHead_numThreads (s : State) (r : RingId) (sd : Side) (v : U32) : (s.storeHead r sd v).numThreads = s.numThreads := by
  cases r <;> rfl
@[simp] theorem State.storeHead_cnt (s : State) (r : RingId) (sd : Side) (v : U32) : (s.storeHead r sd v).cnt = s.cnt := by
  cases r <;> rfl
@[simp] theorem State.storeHead_lockcnt (s : State) (r : RingId) (sd : Side) (v : U32) : (s.storeHead r sd v).lockcnt = s.lockcnt := by
  cases r <;> rfl
@[simp] theorem State.storeHead_status (s : State) (r : RingId) (sd : Side) (v : U32) : (s.storeHead r sd v).status = s.status := by
  cases r <;> rfl
@[simp] theorem State.storeHead_fault (s : State) (r : RingId) (sd : Side) (v : U32) : (s.storeHead r sd v).fault = s.fault := by
  cases r <;> rfl
@[simp] theorem State.storeHead_ports (s : State) (r : RingId) (sd : Side) (v : U32) : (s.storeHead r sd v).ports = s.ports := by
  cases r <;> rfl
@[simp] theorem State.storeHead_freech (s : State) (r : RingId) (sd : Side) (v : U32) : (s.storeHead r sd v).freech = s.freech := by
  cases r <;> rfl
@[simp] theorem State.storeHead_cur (s : State) (r : RingId) (sd : Side) (v : U32) : (s.storeHead r sd v).cur = s.cur := by
  cases r <;> rfl
@[simp] theorem State.storeHead_sched (s : State) (r : RingId) (sd : Side) (v : U32) : (s.storeHead r sd v).sched = s.sched := by
  cases r <;> rfl
@[simp] theorem State.storeHead_tick (s : State) (r : RingId) (sd : Side) (v : U32) : (s.storeHead r sd v).tick = s.tick := by
  cases r <;> rfl

/-! ### `storeTail` -/

@[simp] theorem State.storeTail_cfg (s : State) (r : RingId) (sd : Side) (v : U32) : (s.storeTail r sd v).cfg = s.cfg := by
  unfold State.storeTail; split <;> simp
@[simp] theorem State.storeTail_token (s : State) (r : RingId) (sd : Side) (v : U32) : (s.storeTail r sd v).token = s.token := by
  unfold State.storeTail; split <;> simp
@[simp] theorem State.storeTail_acked (s : State) (r : RingId) (sd : Side) (v : U32) : (s.storeTail r sd v).acked = s.acked := by
  unfold State.storeTail; split <;> simp
@[simp] theorem State.storeTail_bitmap (s : State) (r : RingId) (sd : Side) (v : U32) : (s.storeTail r sd v).bitmap = s.bitmap := by
  unfold State.storeTail; split <;> simp
@[simp] theorem State.storeTail_numThreads (s : State) (r : RingId) (sd : Side) (v : U32) : (s.storeTail r sd v).numThreads = s.numThreads := by
  unfold State.storeTail; split <;> simp
@[simp] theorem State.storeTail_cnt (s : State) (r : RingId) (sd : Side) (v : U32) : (s.storeTail r sd v).cnt = s.cnt := by
  unfold State.storeTail; split <;> simp
@[simp] theorem State.storeTail_lockcnt (s : State) (r : RingId) (sd : Side) (v : U32) : (s.storeTail r sd v).lockcnt = s.lockcnt := by
  unfold State.storeTail; split <;> simp
@[simp] theorem State.storeTail_status (s : State) (r : RingId) (sd : Side) (v : U32) : (s.storeTail r sd v).status = s.status := by
  unfold State.storeTail; split <;> simp
@[simp] theorem State.storeTail_fault (s : State) (r : RingId) (sd : Side) (v : U32) : (s.storeTail r sd v).fault = s.fault := by
  unfold State.storeTail; split <;> simp
@[simp] theorem State.storeTail_ports (s : State) (r : RingId) (sd : Side) (v : U32) : (s.storeTail r sd v).ports = s.ports := by
  unfold State.storeTail; split <;> simp
@[simp] theorem State.storeTail_freech (s : State) (r : RingId) (sd : Side) (v : U32) : (s.storeTail r sd v).freech = s.freech := by
  unfold State.storeTail; split <;> simp
@[simp] theorem State.storeTail_cur (s : State) (r : RingId) (sd : Side) (v : U32) : (s.storeTail r sd v).cur = s.cur := by
  unfold State.storeTail; split <;> simp
@[simp] theorem State.storeTail_sched (s : State) (r : RingId) (sd : Side) (v : U32) : (s.storeTail r sd v).sched = s.sched := by
  unfold State.storeTail; split <;> simp
@[simp] theorem State.storeTail_tick (s : State) (r : RingId) (sd : Side) (v : U32) : (s.storeTail r sd v).tick = s.tick := by
  unfold State.storeTail; split <;> simp

/-! ### The granted port -/

theorem State.port_eq (s : State) (h : s.granted) : s.port = s.ports[s.cur] := by
  simp [State.port, List.getD_eq_getElem?_getD, h]

theorem State.getElem?_cur (s : State) (h : s.granted) : s.ports[s.cur]? = some s.port := by
  simp [State.port_eq s h, h]

theorem State.updPortAt_length (s : State) (p : Nat) (f : Port → Port) :
    (s.updPortAt p f).ports.length = s.ports.length := by simp

@[simp] theorem State.updPort_length (s : State) (f : Port → Port) : (s.updPort f).ports.length = s.ports.length := by
  simp

@[simp] theorem State.respondWith_length (s : State) (st : Status) (n : U32) (v : U64) (pl : List Element) :
    (s.respondWith st n v pl).ports.length = s.ports.length := State.updPort_length s _

@[simp] theorem State.respond_length (s : State) (st : Status) (n : U32) (v : U64) :
    (s.respond st n v).ports.length = s.ports.length := State.respondWith_length s st n v []

@[simp] theorem State.popCmd_length (s : State) : s.popCmd.ports.length = s.ports.length := State.updPort_length s _

@[simp] theorem State.latch_length (s : State) (m : Message) : (s.latch m).ports.length = s.ports.length :=
  State.updPort_length s _

/-- What port `p` is after a change of the granted port. -/
theorem State.updPort_getElem? (s : State) (f : Port → Port) (p : Nat) :
    (s.updPort f).ports[p]? = if p = s.cur then s.ports[p]?.map f else s.ports[p]? := by
  simp only [State.updPort_ports, List.getElem?_modify, eq_comm (a := p)]
  split <;> simp

/-- A change of the granted port leaves every other port as it is. -/
theorem State.updPort_other (s : State) (f : Port → Port) (p : Nat) (h : p ≠ s.cur) :
    (s.updPort f).ports[p]? = s.ports[p]? := by
  rw [State.updPort_getElem?, if_neg h]

theorem State.updPort_port (s : State) (f : Port → Port) (h : s.granted) : (s.updPort f).port = f s.port := by
  have h' : (s.updPort f).granted := by simpa [State.granted] using h
  rw [State.port_eq _ h', State.port_eq _ h]
  simp [State.updPort, State.updPortAt]

theorem State.updLat_port (s : State) (f : Latches → Latches) (h : s.granted) :
    (s.updLat f).port = { s.port with lat := f s.port.lat } := State.updPort_port s _ h

theorem State.setPhase_port (s : State) (ph : Phase) (h : s.granted) :
    (s.setPhase ph).port = { s.port with phase := ph } := State.updPort_port s _ h

theorem State.updLat_lat (s : State) (f : Latches → Latches) (h : s.granted) : (s.updLat f).lat = f s.lat := by
  simp [State.lat, State.updLat_port s f h]

theorem State.updLat_phase (s : State) (f : Latches → Latches) (h : s.granted) : (s.updLat f).phase = s.phase := by
  simp [State.phase, State.updLat_port s f h]

theorem State.respondWith_port (s : State) (st : Status) (n : U32) (v : U64) (pl : List Element) (h : s.granted) :
    (s.respondWith st n v pl).port =
      { s.port with
        phase := .idle
        rspch := s.port.rspch ++ [{ word := responseWord st n v, payload := pl }] } := State.updPort_port s _ h

theorem State.popCmd_port (s : State) (h : s.granted) :
    s.popCmd.port = { s.port with cmdch := s.port.cmdch.tail } := State.updPort_port s _ h

theorem State.latch_port (s : State) (m : Message) (h : s.granted) :
    (s.latch m).port = { s.port with lat := { Latches.reset with cmd := m.word, src := m.payload } } :=
  State.updLat_port s _ h

/-- A state with the same ports and the same granted port has the same port, phase and latches. -/
theorem State.port_congr (s t : State) (hp : t.ports = s.ports) (hc : t.cur = s.cur) : t.port = s.port := by
  simp [State.port, hp, hc]

/-! ### Rings and sides -/

@[simp] theorem State.setRing_ring (s : State) (r : RingId) (x : Ring) : (s.setRing r x).ring r = x := by
  cases r <;> rfl

theorem State.setRing_ring_other (s : State) (r r' : RingId) (x : Ring) (h : r' ≠ r) :
    (s.setRing r x).ring r' = s.ring r' := by
  cases r <;> cases r' <;> first | rfl | exact absurd rfl h

@[simp] theorem Ring.setSide_side (x : Ring) (sd : Side) (w : SideRegs) : (x.setSide sd w).side sd = w := by
  cases sd <;> rfl

theorem Ring.setSide_side_other (x : Ring) (sd sd' : Side) (w : SideRegs) (h : sd' ≠ sd) :
    (x.setSide sd w).side sd' = x.side sd' := by
  cases sd <;> cases sd' <;> first | rfl | exact absurd rfl h

@[simp] theorem Ring.setSide_mem (x : Ring) (sd : Side) (w : SideRegs) : (x.setSide sd w).mem = x.mem := by
  cases sd <;> rfl

@[simp] theorem State.setSide_side (s : State) (r : RingId) (sd : Side) (w : SideRegs) :
    (s.setSide r sd w).side r sd = w := by
  simp [State.side, State.setSide]

theorem State.setSide_side_other (s : State) (r r' : RingId) (sd sd' : Side) (w : SideRegs) (h : r' ≠ r ∨ sd' ≠ sd) :
    (s.setSide r sd w).side r' sd' = s.side r' sd' := by
  unfold State.side State.setSide
  by_cases hr : r' = r
  · subst hr
    rw [State.setRing_ring, Ring.setSide_side_other _ _ _ _ (h.resolve_left fun h => h rfl)]
  · rw [State.setRing_ring_other _ _ _ _ hr]

@[simp] theorem State.setSide_mem (s : State) (r r' : RingId) (sd : Side) (w : SideRegs) :
    ((s.setSide r sd w).ring r').mem = (s.ring r').mem := by
  unfold State.setSide
  by_cases hr : r' = r
  · subst hr
    simp
  · rw [State.setRing_ring_other _ _ _ _ hr]

/-- An update that leaves both rings as they are leaves every ring as it is. -/
theorem State.ring_congr (s t : State) (h0 : t.fifo = s.fifo) (h1 : t.defer = s.defer) (r : RingId) :
    t.ring r = s.ring r := by
  cases r
  · exact h0
  · exact h1

end Sys2Proof.Machine
end

