-- ==== Sys2Proof/Laws/Flow.lean ====
section
/-! SUPPORT. How to say of a labelled line everything it can do: `Flow.Sat` gives one condition for each way a line can
leave its sub-sequence, `Sat.within` composes a sub-sequence with its caller, and `exec_next_busy` and `exec_next_idle`
read a step of a command off its lines. -/

namespace Sys2Proof.Machine

/-- What holds of the outcome of a line: `g` where it goes to a label, `r` where its sub-sequence returns, `e` where the
command has answered, `f` where the model stops. -/
def Flow.Sat (x : Flow) (g : Label → List Seq → State → Prop) (r e : State → Prop) (f : Fault → Prop) : Prop :=
  match x with
  | .goto l st s => g l st s
  | .ret s => r s
  | .ended s => e s
  | .stop q => f q

@[simp] theorem Flow.Sat_goto {g : Label → List Seq → State → Prop} {r e : State → Prop} {f : Fault → Prop} (l : Label)
    (st : List Seq) (s : State) : (Flow.goto l st s).Sat g r e f ↔ g l st s := Iff.rfl

@[simp] theorem Flow.Sat_ret {g : Label → List Seq → State → Prop} {r e : State → Prop} {f : Fault → Prop} (s : State) :
    (Flow.ret s).Sat g r e f ↔ r s := Iff.rfl

@[simp] theorem Flow.Sat_ended {g : Label → List Seq → State → Prop} {r e : State → Prop} {f : Fault → Prop} (s : State) :
    (Flow.ended s).Sat g r e f ↔ e s := Iff.rfl

@[simp] theorem Flow.Sat_stop {g : Label → List Seq → State → Prop} {r e : State → Prop} {f : Fault → Prop} (q : Fault) :
    (Flow.stop q).Sat g r e f ↔ f q := Iff.rfl

/-- A sub-sequence within its caller: its returns go on with `k`. -/
theorem Flow.Sat.within {x : Flow} {q : Seq} {k : State → Flow} {g g' : Label → List Seq → State → Prop}
    {r r' e e' : State → Prop} {f f' : Fault → Prop} (h : x.Sat g r e f) (hg : ∀ l st s, g l st s → g' l (q :: st) s)
    (hr : ∀ s, r s → (k s).Sat g' r' e' f') (he : ∀ s, e s → e' s) (hf : ∀ q, f q → f' q) :
    (x.within q k).Sat g' r' e' f' := by
  cases x with
  | goto l st s => exact hg l st s h
  | ret s => exact hr s h
  | ended s => exact he s h
  | stop q => exact hf q h

/-- A weaker condition. -/
theorem Flow.Sat.imp {x : Flow} {g g' : Label → List Seq → State → Prop} {r r' e e' : State → Prop}
    {f f' : Fault → Prop} (h : x.Sat g r e f) (hg : ∀ l st s, g l st s → g' l st s) (hr : ∀ s, r s → r' s)
    (he : ∀ s, e s → e' s) (hf : ∀ q, f q → f' q) : x.Sat g' r' e' f' := by
  cases x with
  | goto l st s => exact hg l st s h
  | ret s => exact hr s h
  | ended s => exact he s h
  | stop q => exact hf q h

@[simp] theorem Flow.within_goto (l : Label) (st : List Seq) (s : State) (q : Seq) (k : State → Flow) :
    (Flow.goto l st s).within q k = .goto l (q :: st) s := rfl

@[simp] theorem Flow.within_ret (s : State) (q : Seq) (k : State → Flow) : (Flow.ret s).within q k = k s := rfl

@[simp] theorem Flow.within_ended (s : State) (q : Seq) (k : State → Flow) : (Flow.ended s).within q k = .ended s := rfl

@[simp] theorem Flow.within_stop (f : Fault) (q : Seq) (k : State → Flow) : (Flow.stop f).within q k = .stop f := rfl

@[simp] theorem Flow.outcome_goto (l : Label) (st : List Seq) (s : State) :
    (Flow.goto l st s).outcome = .next (s.setPhase (.busy l st)) := rfl

@[simp] theorem Flow.outcome_ended (s : State) : (Flow.ended s).outcome = .next s := rfl

@[simp] theorem Flow.outcome_ret (s : State) : (Flow.ret s).outcome = .fault .strayPhase := rfl

@[simp] theorem Flow.outcome_stop (f : Fault) : (Flow.stop f).outcome = .fault f := rfl

@[simp] theorem Flow.ofExcept_ok {α : Type} (v : α) (k : α → Flow) : Flow.ofExcept (.ok v) k = k v := rfl

@[simp] theorem Flow.ofExcept_error {α : Type} (f : Fault) (k : α → Flow) :
    Flow.ofExcept (.error f : Except Fault α) k = .stop f := rfl

/-- A line gives a next state in two ways only: it goes to a label, or it has answered. -/
theorem Flow.outcome_next {x : Flow} {t : State} (h : x.outcome = .next t) :
    (∃ l st s, x = .goto l st s ∧ t = s.setPhase (.busy l st)) ∨ x = .ended t := by
  cases x with
  | goto l st s => exact .inl ⟨l, st, s, rfl, by simpa using h.symm⟩
  | ret s => cases h
  | ended s => right; simpa using h
  | stop f => cases h

/-- A command's step at a labelled line. -/
theorem runCommand_busy {a : State → Flow} {line : Label → List Seq → State → Flow} {s : State} {l : Label}
    {st : List Seq} (hc : s.granted) (hp : s.phase = .busy l st) : runCommand a line s = (line l st s).outcome := by
  simp [runCommand, hc, hp]

/-- A command's acceptance step. -/
theorem runCommand_idle {a : State → Flow} {line : Label → List Seq → State → Flow} {s : State} (hc : s.granted)
    (hp : s.phase = .idle) : runCommand a line s = (a s).outcome := by
  simp [runCommand, hc, hp]

/-- A command gives a next state only to a port that exists. -/
theorem runCommand_granted {a : State → Flow} {line : Label → List Seq → State → Flow} {s t : State}
    (h : runCommand a line s = .next t) : s.granted := by
  unfold runCommand at h
  split at h
  · assumption
  · cases h

end Sys2Proof.Machine
end

