-- ==== Sys2Proof/Laws/Frames.lean ====
section
/-! SUPPORT. What every labelled line leaves as it is, said once for each sub-sequence: only the port that takes the step
changes among the ports, and its latched command and its command channel stay; the configuration and the model's own
fields stay. -/

namespace Sys2Proof.Machine

/-- From `s` to `t` only the port that takes the step differs among the ports, and its latched command and its command
channel do not. -/
structure KeepsOthers (s t : State) : Prop where
  cfg : t.cfg = s.cfg
  cur : t.cur = s.cur
  sched : t.sched = s.sched
  tick : t.tick = s.tick
  count : t.ports.length = s.ports.length
  others : ∀ p, p ≠ s.cur → t.ports[p]? = s.ports[p]?
  command : t.lat.cmd = s.lat.cmd
  channel : t.port.cmdch = s.port.cmdch

theorem KeepsOthers.refl (s : State) : KeepsOthers s s := ⟨rfl, rfl, rfl, rfl, rfl, fun _ _ => rfl, rfl, rfl⟩

theorem KeepsOthers.trans {s t u : State} (h : KeepsOthers s t) (k : KeepsOthers t u) : KeepsOthers s u where
  cfg := k.cfg.trans h.cfg
  cur := k.cur.trans h.cur
  sched := k.sched.trans h.sched
  tick := k.tick.trans h.tick
  count := k.count.trans h.count
  others := fun p hp => (k.others p (by rw [h.cur]; exact hp)).trans (h.others p hp)
  command := k.command.trans h.command
  channel := k.channel.trans h.channel

/-- An update of shared state. -/
theorem KeepsOthers.ofPorts {s t : State} (h1 : t.cfg = s.cfg) (h2 : t.cur = s.cur) (h3 : t.sched = s.sched)
    (h4 : t.tick = s.tick) (h5 : t.ports = s.ports) : KeepsOthers s t where
  cfg := h1
  cur := h2
  sched := h3
  tick := h4
  count := by rw [h5]
  others := fun p _ => by rw [h5]
  command := by rw [State.lat, State.lat, State.port_congr s t h5 h2]
  channel := by rw [State.port_congr s t h5 h2]

/-- The granted port after an update of it, whether or not it exists. -/
theorem State.updPort_port_any (s : State) (f : Port → Port) :
    (s.updPort f).port = f s.port ∨ (s.updPort f).port = s.port := by
  by_cases h : s.granted
  · exact .inl (State.updPort_port s f h)
  · right
    have h' : s.ports.length ≤ s.cur := Nat.le_of_not_lt h
    simp [State.port, State.updPort, State.updPortAt, List.getD_eq_getElem?_getD, List.getElem?_eq_none h']

/-- An update of the granted port that keeps its latched command and its command channel. -/
theorem KeepsOthers.updPort (s : State) (f : Port → Port) (hc : (f s.port).lat.cmd = s.port.lat.cmd)
    (hk : (f s.port).cmdch = s.port.cmdch) : KeepsOthers s (s.updPort f) where
  cfg := rfl
  cur := rfl
  sched := rfl
  tick := rfl
  count := by simp
  others := fun p hp => State.updPort_other s f p hp
  command := by rcases State.updPort_port_any s f with h | h <;> simp [State.lat, h, hc]
  channel := by rcases State.updPort_port_any s f with h | h <;> simp [h, hk]

theorem KeepsOthers.updLat (s : State) (f : Latches → Latches) (hc : (f s.lat).cmd = s.lat.cmd) :
    KeepsOthers s (s.updLat f) := KeepsOthers.updPort s _ hc rfl

theorem KeepsOthers.setPhase (s : State) (ph : Phase) : KeepsOthers s (s.setPhase ph) := KeepsOthers.updPort s _ rfl rfl

theorem KeepsOthers.respondWith (s : State) (st : Status) (cnt : U32) (val : U64) (pl : List Element) :
    KeepsOthers s (s.respondWith st cnt val pl) := KeepsOthers.updPort s _ rfl rfl

theorem KeepsOthers.respond (s : State) (st : Status) (cnt : U32) (val : U64) :
    KeepsOthers s (s.respond st cnt val) := KeepsOthers.respondWith s st cnt val []

theorem KeepsOthers.setSide (s : State) (r : RingId) (sd : Side) (w : SideRegs) : KeepsOthers s (s.setSide r sd w) :=
  .ofPorts (by simp) (by simp) (by simp) (by simp) (by simp)

theorem KeepsOthers.setA (s : State) (r : RingId) (sd : Side) (w : U64) : KeepsOthers s (s.setA r sd w) :=
  KeepsOthers.setSide s r sd _

theorem KeepsOthers.setB (s : State) (r : RingId) (sd : Side) (w : U64) : KeepsOthers s (s.setB r sd w) :=
  KeepsOthers.setSide s r sd _

theorem KeepsOthers.setSown (s : State) (r : RingId) (sd : Side) (o : Owner) : KeepsOthers s (s.setSown r sd o) :=
  KeepsOthers.setSide s r sd _

theorem KeepsOthers.storeHead (s : State) (r : RingId) (sd : Side) (v : U32) : KeepsOthers s (s.storeHead r sd v) :=
  KeepsOthers.setSide s r sd _

theorem KeepsOthers.storeTail (s : State) (r : RingId) (sd : Side) (v : U32) : KeepsOthers s (s.storeTail r sd v) :=
  .ofPorts (by simp) (by simp) (by simp) (by simp) (by simp)

/-! ### Lines -/

/-- However the line leaves its sub-sequence, it keeps the others. -/
abbrev Flow.KeepsOthers (s : State) (x : Flow) : Prop :=
  x.Sat (fun _ _ t => Machine.KeepsOthers s t) (Machine.KeepsOthers s) (Machine.KeepsOthers s) fun _ => True

theorem Flow.keepsOthers_trans {s t : State} {x : Flow} (h : Machine.KeepsOthers s t) (k : x.KeepsOthers t) :
    x.KeepsOthers s :=
  k.imp (fun _ _ _ a => h.trans a) (fun _ a => h.trans a) (fun _ a => h.trans a) (fun _ a => a)

theorem Flow.keepsOthers_within {s : State} {x : Flow} {q : Seq} {k : State → Flow} (h : x.KeepsOthers s)
    (hk : ∀ t, (k t).KeepsOthers t) : (x.within q k).KeepsOthers s :=
  Flow.Sat.within h (fun _ _ _ a => a) (fun t a => Flow.keepsOthers_trans a (hk t)) (fun _ a => a) (fun _ a => a)

theorem raiseFault_keepsOthers (f : FaultBit) (s : State) : (raiseFault f s).KeepsOthers s :=
  KeepsOthers.trans (t := s.setFault f) (.ofPorts rfl rfl rfl rfl rfl) (KeepsOthers.respond _ _ _ _)

theorem answer_keepsOthers (st : Status) (s : State) : (answer st s).KeepsOthers s := KeepsOthers.respond _ _ _ _

theorem tkinc_keepsOthers {s : State} {k : State → Flow} (hk : ∀ t, (k t).KeepsOthers t) :
    (tkinc s k).KeepsOthers s := by
  unfold tkinc
  split
  · exact raiseFault_keepsOthers _ _
  · exact Flow.keepsOthers_trans
      (KeepsOthers.trans (t := s.setToken (s.token + 1#64)) (.ofPorts rfl rfl rfl rfl rfl) (KeepsOthers.updLat _ _ rfl))
      (hk _)

theorem loadAvail_keepsOthers (s : State) (r : RingId) (sd : Side) : KeepsOthers s (s.loadAvail r sd) := by
  unfold State.loadAvail
  exact KeepsOthers.updLat s _ rfl

theorem reserveCall_keepsOthers (r : RingId) (sd : Side) (n : U32) (beh : Beh) (s : State) :
    (reserveCall r sd n beh s).KeepsOthers s := KeepsOthers.updLat s _ rfl

theorem reserveLine_keepsOthers (r : RingId) (sd : Side) (l : Label) (s : State) :
    (reserveLine r sd l s).KeepsOthers s := by
  unfold reserveLine
  split
  · exact KeepsOthers.updLat _ _ rfl
  · simp only [reserveAvail]; split <;> exact loadAvail_keepsOthers s r sd
  · simp only [reserveCasMt]; split
    · exact KeepsOthers.storeHead _ _ _ _
    · exact KeepsOthers.refl _
  · simp only [reserveOwn]; split
    · exact raiseFault_keepsOthers _ _
    · exact KeepsOthers.trans (KeepsOthers.setSown _ _ _ _) (KeepsOthers.updLat _ _ rfl)
  · simp only [reserveAvailSt]; split
    · exact (loadAvail_keepsOthers s r sd).trans (KeepsOthers.setSown _ _ _ _)
    · exact loadAvail_keepsOthers s r sd
  · exact KeepsOthers.storeHead _ _ _ _
  · simp only [reserveLoadHts]; split
    · exact KeepsOthers.refl _
    · exact KeepsOthers.updLat s (fun l => { l with oh := loOf (s.side r sd).a }) rfl
  · simp only [reserveAvail]; split <;> exact loadAvail_keepsOthers s r sd
  · simp only [reserveCasHts]; split
    · exact KeepsOthers.setA _ _ _ _
    · exact KeepsOthers.refl _
  · exact KeepsOthers.updLat _ _ rfl
  · simp only [reserveWaitRts]; split <;> exact KeepsOthers.refl _
  · simp only [reserveAvail]; split <;> exact loadAvail_keepsOthers s r sd
  · simp only [reserveCasRts]; split
    · exact KeepsOthers.setA _ _ _ _
    · exact KeepsOthers.refl _
  · trivial

theorem memWrite_keepsOthers {s t : State} {r : RingId} {a : Nat} {v : List Byte} (h : s.memWrite r a v = .ok t) :
    KeepsOthers s t := by
  unfold State.memWrite at h
  split at h
  · cases h
    exact .ofPorts (by simp) (by simp) (by simp) (by simp) (by simp)
  · cases h

theorem copyIn_keepsOthers {s : State} {r : RingId} : ∀ {k : Nat} {t : State}, s.copyIn r k = .ok t → KeepsOthers s t
  | 0, t, h => by cases h; exact KeepsOthers.refl s
  | k + 1, t, h => by
    unfold State.copyIn at h
    split at h
    · cases h
    · rename_i s1 h1
      exact (copyIn_keepsOthers h1).trans (memWrite_keepsOthers h)

theorem copyLine_keepsOthers (r : RingId) (sd : Side) (s : State) : (copyLine r sd s).KeepsOthers s := by
  unfold copyLine
  split
  · cases h : s.copyIn r s.lat.k.toNat with
    | error e => trivial
    | ok t => exact copyIn_keepsOthers h
  · cases h : s.copyOut r s.lat.k.toNat with
    | error e => trivial
    | ok es => exact KeepsOthers.updLat s (fun l => { l with dst := es }) rfl

theorem publishLine_keepsOthers (r : RingId) (sd : Side) (l : Label) (s : State) :
    (publishLine r sd l s).KeepsOthers s := by
  unfold publishLine
  split
  · simp only [publishTurn]; split <;> exact KeepsOthers.refl _
  · exact KeepsOthers.storeTail _ _ _ _
  · exact (KeepsOthers.storeTail _ _ _ _).trans (KeepsOthers.setSown _ _ _ _)
  · exact KeepsOthers.setA _ _ _ _
  · exact KeepsOthers.updLat _ _ rfl
  · exact KeepsOthers.updLat _ _ rfl
  · simp only [publishCasRts]; split
    · exact KeepsOthers.setB _ _ _ _
    · exact KeepsOthers.refl _
  · trivial

theorem cancelLine_keepsOthers (r : RingId) (sd : Side) (l : Label) (s : State) :
    (cancelLine r sd l s).KeepsOthers s := by
  unfold cancelLine
  split
  · exact KeepsOthers.setA _ _ _ _
  · trivial

theorem ringopLine_keepsOthers (r : RingId) (sd : Side) (l : Label) (st : List Seq) (s : State) :
    (ringopLine r sd l st s).KeepsOthers s := by
  unfold ringopLine
  split
  · refine Flow.keepsOthers_within (reserveLine_keepsOthers _ _ _ _) fun t => ?_
    unfold ringopReserved
    split <;> exact KeepsOthers.refl _
  · exact Flow.keepsOthers_within (copyLine_keepsOthers _ _ _) fun t => KeepsOthers.refl _
  · exact Flow.keepsOthers_within (publishLine_keepsOthers _ _ _ _) fun t => KeepsOthers.refl _
  · trivial

theorem countLine_keepsOthers (r : RingId) (l : Label) (s : State) : (countLine r l s).KeepsOthers s := by
  unfold countLine
  split
  · exact KeepsOthers.updLat _ _ rfl
  · exact KeepsOthers.updLat _ _ rfl
  · trivial

theorem checkFin_keepsOthers (s : State) : (checkFin s).KeepsOthers s := by
  unfold checkFin
  split
  · exact KeepsOthers.refl _
  · exact KeepsOthers.updLat _ _ rfl

theorem checkNext_keepsOthers (s : State) : (checkNext s).KeepsOthers s := by
  unfold checkNext
  split
  · have h : KeepsOthers s (s.updLat fun l => { l with wi := l.wi + 1#32 }) := KeepsOthers.updLat s _ rfl
    simp only
    split
    · exact Flow.keepsOthers_trans h (checkFin_keepsOthers _)
    · exact h
  · exact KeepsOthers.refl _

theorem checkLine_keepsOthers (l : Label) (s : State) : (checkLine l s).KeepsOthers s := by
  unfold checkLine
  split
  · unfold checkFast
    split <;> exact KeepsOthers.updLat _ _ rfl
  · exact Flow.keepsOthers_trans (KeepsOthers.updLat _ _ rfl) (checkNext_keepsOthers _)
  · simp only [checkThread]
    split
    · split
      · exact KeepsOthers.refl _
      · exact KeepsOthers.updLat _ _ rfl
    · exact Flow.keepsOthers_trans (KeepsOthers.updLat _ _ rfl) (checkNext_keepsOthers _)
  · exact KeepsOthers.trans (t := s.maxAcked s.lat.minc) (.ofPorts rfl rfl rfl rfl rfl) (KeepsOthers.updLat _ _ rfl)
  · trivial

theorem reclaimLoop_keepsOthers (s : State) : (reclaimLoop s).KeepsOthers s := by
  unfold reclaimLoop
  split
  · exact KeepsOthers.updLat _ _ rfl
  · exact Flow.keepsOthers_within (reserveCall_keepsOthers _ _ _ _ s) fun t => KeepsOthers.refl t

theorem reclaimCall_keepsOthers (lim : Limit) (s : State) : (reclaimCall lim s).KeepsOthers s :=
  Flow.keepsOthers_trans (KeepsOthers.updLat s (fun l => { l with lim := lim, freed := 0#32 }) rfl)
    (reclaimLoop_keepsOthers _)

theorem reclaimFree_keepsOthers (s : State) : (reclaimFree s).KeepsOthers s := by
  have h1 : KeepsOthers s (s.setA .defer .cons (pack (s.lat.oh + 1#32) (s.lat.oh + 1#32))) := KeepsOthers.setA _ _ _ _
  have h2 : ∀ (t : State) (m : FreeMsg), KeepsOthers t ((t.emitFree m).updLat fun l => { l with freed := l.freed + 1#32 }) :=
    fun t m => KeepsOthers.trans (t := t.emitFree m) (.ofPorts rfl rfl rfl rfl rfl) (KeepsOthers.updLat _ _ rfl)
  exact Flow.keepsOthers_trans (h1.trans (h2 _ _)) (reclaimLoop_keepsOthers _)

theorem reclaimLine_keepsOthers (l : Label) (st : List Seq) (s : State) : (reclaimLine l st s).KeepsOthers s := by
  unfold reclaimLine
  split
  · refine Flow.keepsOthers_within (reserveLine_keepsOthers _ _ _ _) fun t => ?_
    unfold reclaimReserved
    split
    · exact KeepsOthers.updLat _ _ rfl
    · exact KeepsOthers.refl _
  · unfold reclaimRead
    cases s.memRead .defer (addrOf s.cfg .defer s.lat.oh) (esize s.cfg .defer) with
    | error e => trivial
    | ok v => exact KeepsOthers.updLat s (fun l => { l with ent := v, t := entryToken v, wt := false }) rfl
  · exact reclaimFree_keepsOthers s
  · refine Flow.keepsOthers_within (checkLine_keepsOthers _ _) fun t => ?_
    unfold reclaimChecked
    split <;> exact KeepsOthers.refl _
  · refine Flow.keepsOthers_within (cancelLine_keepsOthers _ _ _ _) fun t => ?_
    exact KeepsOthers.updLat _ _ rfl
  · trivial

end Sys2Proof.Machine
end

