-- ==== Sys2Proof/Laws/Lines.lean ====
section
/-! SUPPORT. Each command's step at each of its labelled lines, read off its meaning once: the sub-sequence's line within the
command. Later proofs cite these and the lemmas of the sub-sequences, and unfold no meaning. -/

namespace Sys2Proof.Machine

/-- A command that is one `RINGOP` on ring 0. -/
theorem execRingop_line {sd : Side} {n : U32} {beh : Beh} {done : State → Flow} {s : State} {l : Label} {st : List Seq}
    (h : s.atLine l (.ringop :: st)) :
    execRingop sd n beh done s = ((ringopLine .fifo sd l st s).within .ringop done).outcome :=
  runCommand_busy h.1 h.2

/-- A ring command's step at a line of its `RINGOP`, by its side. -/
theorem exec_ringRequest_line {i : Instr} {sd : Side} {n : U32} {beh : Beh} {s : State} {l : Label} {st : List Seq}
    (hi : ringRequest i = some (sd, n, beh)) (h : s.atLine l (.ringop :: st)) :
    exec i s = ((ringopLine .fifo sd l st s).within .ringop
      (match sd with | .prod => enqDone | .cons => deqDone)).outcome := by
  cases i <;> cases hi <;> exact execRingop_line h

/-- A command that is one `COUNTSEQ` on ring 0. -/
theorem execCount_line {done : State → Flow} {s : State} {l : Label} (h : s.atLine l [.countseq]) :
    execCount done s = ((countLine .fifo l s).within .countseq done).outcome :=
  runCommand_busy h.1 h.2

/-- A command with one labelled line, on a thread id. -/
theorem execThread_line {first : Label} {tid : U32} {line : State → Flow} {s : State} (h : s.atLine first []) :
    execThread first tid line s = (line s).outcome := by
  unfold execThread
  rw [runCommand_busy h.1 h.2]
  simp

theorem execQuiescent_q1 {tid : U32} {s : State} (h : s.atLine .q1 []) :
    execQuiescent tid s = (quiescentProbe tid.toNat s).outcome := runCommand_busy h.1 h.2

theorem execQuiescent_q2 {tid : U32} {s : State} (h : s.atLine .q2 []) :
    execQuiescent tid s = (answer .ok (s.setCnt tid.toNat s.lat.qt)).outcome := runCommand_busy h.1 h.2

theorem execStart_a1 {s : State} (h : s.atLine .a1 []) :
    execStart s = (tkinc s fun t => .ended (t.respond .ok 0#32 t.lat.tok)).outcome := runCommand_busy h.1 h.2

theorem execCheck_line {t : U64} {wait : Bool} {s : State} {l : Label} (h : s.atLine l [.checkseq]) :
    execCheck t wait s = ((checkLine l s).within .checkseq checkDone).outcome := runCommand_busy h.1 h.2

theorem execSync_y1 {tid : U32} {s : State} (h : s.atLine .y1 []) : execSync tid s = (syncBegin tid s).outcome :=
  runCommand_busy h.1 h.2

theorem execSync_y2 {tid : U32} {s : State} (h : s.atLine .y2 []) :
    execSync tid s = (Flow.goto .y3 [] (s.updLat fun x => { x with qt := s.token })).outcome := runCommand_busy h.1 h.2

theorem execSync_y3 {tid : U32} {s : State} (h : s.atLine .y3 []) :
    execSync tid s = (syncCheck (s.setCnt tid.toNat s.lat.qt)).outcome := runCommand_busy h.1 h.2

theorem execSync_check {tid : U32} {s : State} {l : Label} (h : s.atLine l [.checkseq]) :
    execSync tid s = ((checkLine l s).within .checkseq syncDone).outcome := by
  unfold execSync
  rw [runCommand_busy h.1 h.2]
  cases l <;> rfl

theorem execDqEnq_d1 {s : State} (h : s.atLine .d1 []) : execDqEnq s = (dqEnqBegin s).outcome :=
  runCommand_busy h.1 h.2

theorem execDqEnq_ringop {s : State} {l : Label} {st : List Seq} (h : s.atLine l (.ringop :: st)) :
    execDqEnq s = ((ringopLine .defer .prod l st s).within .ringop dqEnqPushed).outcome := by
  unfold execDqEnq
  rw [runCommand_busy h.1 h.2]
  cases l <;> rfl

theorem execDqEnq_count {s : State} {l : Label} (h : s.atLine l [.countseq]) :
    execDqEnq s = ((countLine .defer l s).within .countseq dqEnqCounted).outcome := by
  unfold execDqEnq
  rw [runCommand_busy h.1 h.2]
  cases l <;> rfl

theorem execDqEnq_reclaim {s : State} {l : Label} {st : List Seq} (h : s.atLine l (.reclaimseq :: st)) :
    execDqEnq s = ((reclaimLine l st s).within .reclaimseq dqEnqDone).outcome := by
  unfold execDqEnq
  rw [runCommand_busy h.1 h.2]
  cases l <;> rfl

theorem execDqReclaim_r1 {n : U32} {s : State} (h : s.atLine .r1 []) :
    execDqReclaim n s = (ifAlive s fun t => (reclaimCall (.num n) t).within .reclaimseq dqReclaimDone).outcome :=
  runCommand_busy h.1 h.2

theorem execDqReclaim_reclaim {n : U32} {s : State} {l : Label} {st : List Seq} (h : s.atLine l (.reclaimseq :: st)) :
    execDqReclaim n s = ((reclaimLine l st s).within .reclaimseq dqReclaimDone).outcome := by
  unfold execDqReclaim
  rw [runCommand_busy h.1 h.2]
  cases l <;> rfl

theorem execDqDelete_z0 {s : State} (h : s.atLine .z0 []) :
    execDqDelete s = (ifAlive s fun t => (reclaimCall .inf t).within .reclaimseq dqDeletePassed).outcome :=
  runCommand_busy h.1 h.2

theorem execDqDelete_z1 {s : State} (h : s.atLine .z1 []) :
    execDqDelete s = .next (s.killDq.respond .ok s.lat.freed 0#64) := runCommand_busy h.1 h.2

theorem execDqDelete_reclaim {s : State} {l : Label} {st : List Seq} (h : s.atLine l (.reclaimseq :: st)) :
    execDqDelete s = ((reclaimLine l st s).within .reclaimseq dqDeletePassed).outcome := by
  unfold execDqDelete
  rw [runCommand_busy h.1 h.2]
  cases l <;> rfl

theorem execCsrRd_c1 {reg : U32} {idx : U64} {s : State} {v : U64} (h : s.atLine .c1 []) (hv : s.csr reg idx = some v) :
    execCsrRd reg idx s = .next (s.respond .ok 0#32 v) := by
  unfold execCsrRd
  rw [runCommand_busy h.1 h.2]
  simp [hv]

/-! ### Acceptance -/

/-- The acceptance step of a command whose waiting message is `m`. -/
theorem accept_waiting {u : CmdUnit} {oe zc : Bool} {enter : State → Flow} {s : State} {m : Message}
    {rest : List Message} (h : s.port.cmdch = m :: rest) :
    accept u oe zc enter s =
      if !(s.unitOk u) then .ended (s.popCmd.respond .eCfg 0#32 0#64)
      else if oe then .ended (s.popCmd.respond .eInval 0#32 0#64)
      else if zc then .ended (s.popCmd.respond .ok 0#32 0#64)
      else enter (s.popCmd.latch m) := by
  unfold accept
  rw [h]

/-! ### The arbiter -/

/-- The step at a state whose next event is listed. -/
theorem step_sched {s : State} {e : Event} {es : List Event} (h : s.sched = e :: es) :
    step s = stepEvent (some e) { s with sched := es } := by
  simp [step, nextEvent, h]

/-- A grant to a busy port that executes `i`. -/
theorem grantTo_busy {p : Nat} {q : Port} {s : State} {l : Label} {st : List Seq} {i : Instr}
    (h : q.phase = .busy l st) (hi : q.command = some i) : grantTo p q s = exec i { s with cur := p } := by
  unfold grantTo
  simp only [h, hi]

/-- A grant to an idle port with a waiting message that decodes. -/
theorem grantTo_idle {p : Nat} {q : Port} {s : State} {m : Message} {rest : List Message} {i : Instr}
    (h : q.phase = .idle) (hm : q.cmdch = m :: rest) (hi : decodeMessage s.cfg m = .ok i) :
    grantTo p q s = exec i { s with cur := p } := by
  unfold grantTo
  simp only [h, hm, hi]

end Sys2Proof.Machine
end

