-- ==== Sys2Proof/Laws/Memory.lean ====
section
/-! SUPPORT. Ring storage: what a write stores and what it leaves alone, and that every memory operation keeps the canonical
form (addresses strictly rising) and the size of the storage. -/

namespace Sys2Proof.Machine

/-! ### One byte -/

@[simp] theorem Memory.read_nil (a : Nat) : Memory.read [] a = none := rfl

/-- Below every listed address nothing is held. -/
theorem Memory.read_below : ∀ (m : Memory) (a : Nat), (∀ c ∈ m, a < c.1) → m.read a = none
  | [], _, _ => rfl
  | (b, v) :: m, a, h => by
    have hb : a < b := h (b, v) (by simp)
    simp [Memory.read, Nat.ne_of_gt hb, hb]

/-- The canonical form, read off the head: the tail is canonical and lies above the head. -/
theorem Memory.wf_cons (b : Nat) (v : Byte) (m : Memory) :
    Memory.wf ((b, v) :: m) = true ↔ m.wf = true ∧ ∀ c ∈ m, b < c.1 := by
  induction m generalizing b v with
  | nil => simp [Memory.wf]
  | cons c m ih =>
    obtain ⟨d, w⟩ := c
    simp only [Memory.wf, Bool.and_eq_true, decide_eq_true_eq, ih d w, List.mem_cons, forall_eq_or_imp]
    constructor
    · rintro ⟨h1, h2, h3⟩
      exact ⟨⟨h2, h3⟩, h1, fun c hc => Nat.lt_trans h1 (h3 c hc)⟩
    · rintro ⟨⟨h2, h3⟩, h1, _⟩
      exact ⟨h1, h2, h3⟩

/-- What is listed after a write is the byte written or was listed before. -/
theorem Memory.mem_write : ∀ (m : Memory) (a : Nat) (x : Byte) (c : Host.Cell), c ∈ m.write a x → c = (a, x) ∨ c ∈ m
  | [], _, _, _, h => by simpa [Memory.write] using h
  | (b, v) :: m, a, x, c, h => by
    unfold Memory.write at h
    split at h
    · rcases List.mem_cons.mp h with h | h
      · exact .inl h
      · exact .inr (List.mem_cons_of_mem _ h)
    · split at h
      · rcases List.mem_cons.mp h with h | h
        · exact .inl h
        · exact .inr h
      · rcases List.mem_cons.mp h with h | h
        · exact .inr (by simp [h])
        · rcases Memory.mem_write m a x c h with h | h
          · exact .inl h
          · exact .inr (List.mem_cons_of_mem _ h)

/-- A write keeps the canonical form. -/
theorem Memory.write_wf : ∀ (m : Memory) (a : Nat) (x : Byte), m.wf = true → (m.write a x).wf = true
  | [], _, _, _ => rfl
  | (b, v) :: m, a, x, h => by
    have h' := (Memory.wf_cons b v m).mp h
    unfold Memory.write
    split
    · rename_i hab
      exact (Memory.wf_cons a x m).mpr ⟨h'.1, hab ▸ h'.2⟩
    · rename_i hne
      split
      · rename_i hlt
        refine (Memory.wf_cons a x _).mpr ⟨h, fun c hc => ?_⟩
        rcases List.mem_cons.mp hc with hc | hc
        · exact hc ▸ hlt
        · exact Nat.lt_trans hlt (h'.2 c hc)
      · rename_i hge
        refine (Memory.wf_cons b v _).mpr ⟨Memory.write_wf m a x h'.1, fun c hc => ?_⟩
        rcases Memory.mem_write m a x c hc with hc | hc
        · have : b < a := by omega
          exact hc ▸ this
        · exact h'.2 c hc

/-- Read after write. -/
theorem Memory.read_write (m : Memory) (a : Nat) (x : Byte) (a' : Nat) (h : m.wf = true) :
    (m.write a x).read a' = if a' = a then some x else m.read a' := by
  induction m with
  | nil => simp only [Memory.write, Memory.read, eq_comm (a := a)]; split <;> simp
  | cons c m ih =>
    obtain ⟨b, v⟩ := c
    have h' := (Memory.wf_cons b v m).mp h
    unfold Memory.write
    split
    · rename_i hab
      subst hab
      simp only [Memory.read, eq_comm (a := b)]
      split <;> rfl
    · rename_i hne
      split
      · rename_i hlt
        by_cases h1 : a' = a
        · subst h1; simp [Memory.read]
        · have h1' : a ≠ a' := fun e => h1 e.symm
          simp only [Memory.read, if_neg h1', if_neg h1]
          by_cases h2 : a' < a
          · have : a' < b := by omega
            have h3 : b ≠ a' := by omega
            simp [h2, h3, this]
          · simp [h2]
      · rename_i hge
        simp only [Memory.read, ih h'.1]
        by_cases h1 : b = a'
        · have : a' ≠ a := by omega
          simp [h1, this]
        · simp only [if_neg h1]
          by_cases h2 : a' < b
          · have : a' ≠ a := by omega
            simp [h2, this]
          · simp [h2]

/-- A write within the size keeps the storage within its size. -/
theorem Memory.write_within (m : Memory) (a : Nat) (x : Byte) (size : Nat) (ha : a < size) (h : m.within size) :
    (m.write a x).within size := by
  intro c hc
  rcases Memory.mem_write m a x c hc with hc | hc
  · exact hc ▸ ha
  · exact h c hc

/-! ### A run of bytes -/

/-- Writing bytes keeps the canonical form. -/
theorem Memory.writeBytes_wf : ∀ (vs : List Byte) (m : Memory) (a : Nat), m.wf = true → (m.writeBytes a vs).wf = true
  | [], _, _, h => h
  | v :: vs, m, a, h => Memory.writeBytes_wf vs (m.write a v) (a + 1) (Memory.write_wf m a v h)

/-- Writing bytes within the size keeps the storage within its size. -/
theorem Memory.writeBytes_within : ∀ (vs : List Byte) (m : Memory) (a size : Nat), a + vs.length ≤ size →
    m.within size → (m.writeBytes a vs).within size
  | [], _, _, _, _, h => h
  | v :: vs, m, a, size, hs, h => by
    rw [List.length_cons] at hs
    exact Memory.writeBytes_within vs (m.write a v) (a + 1) size (by omega)
      (Memory.write_within m a v size (by omega) h)

/-- What a byte reads after a run of bytes has been written. -/
theorem Memory.read_writeBytes : ∀ (vs : List Byte) (m : Memory) (a a' : Nat), m.wf = true →
    (m.writeBytes a vs).read a' = if a ≤ a' ∧ a' < a + vs.length then vs[a' - a]? else m.read a'
  | [], m, a, a', _ => by
    have h : ¬ (a ≤ a' ∧ a' < a + 0) := by omega
    simp only [Memory.writeBytes, List.length_nil, if_neg h]
  | v :: vs, m, a, a', h => by
    rw [Memory.writeBytes, Memory.read_writeBytes vs _ _ _ (Memory.write_wf m a v h), Memory.read_write m a v a' h]
    by_cases h1 : a' = a
    · subst h1
      simp
    · by_cases h2 : a + 1 ≤ a' ∧ a' < a + 1 + vs.length
      · have h3 : a ≤ a' ∧ a' < a + (v :: vs).length := by simp; omega
        rw [if_pos h2, if_pos h3]
        have : a' - a = (a' - (a + 1)) + 1 := by omega
        rw [this, List.getElem?_cons_succ]
      · have h3 : ¬ (a ≤ a' ∧ a' < a + (v :: vs).length) := by simp; omega
        rw [if_neg h2, if_neg h3, if_neg h1]

/-- Reading bytes succeeds exactly when every one of them holds a value. -/
theorem Memory.readBytes_eq_some : ∀ (n : Nat) (m : Memory) (a : Nat) (vs : List Byte),
    m.readBytes a n = some vs ↔ vs.length = n ∧ ∀ j, j < n → m.read (a + j) = vs[j]?
  | 0, m, a, vs => by
    simp only [Memory.readBytes, Option.some.injEq]
    constructor
    · rintro rfl; simp
    · rintro ⟨h, _⟩; exact (List.length_eq_zero_iff.mp h).symm
  | n + 1, m, a, vs => by
    unfold Memory.readBytes
    constructor
    · intro h
      split at h
      · rename_i v ws h1 h2
        cases h
        obtain ⟨h3, h4⟩ := (Memory.readBytes_eq_some n m (a + 1) ws).mp h2
        refine ⟨by simp [h3], fun j hj => ?_⟩
        cases j with
        | zero => simpa using h1
        | succ j =>
          have := h4 j (by omega)
          rw [List.getElem?_cons_succ, ← this]
          congr 1; omega
      · cases h
    · rintro ⟨h1, h2⟩
      match vs, h1, h2 with
      | v :: ws, h1, h2 =>
        have hv : m.read a = some v := by simpa using h2 0 (by omega)
        have hw : m.readBytes (a + 1) n = some ws := by
          refine (Memory.readBytes_eq_some n m (a + 1) ws).mpr ⟨by simpa using h1, fun j hj => ?_⟩
          have := h2 (j + 1) (by omega)
          rw [List.getElem?_cons_succ] at this
          rw [← this]
          congr 1; omega
        rw [hv, hw]

/-! ### The ring's storage within the state -/

/-- A read of storage gives that many bytes. -/
theorem State.memRead_length {s : State} {r : RingId} {a n : Nat} {vs : List Byte} (h : s.memRead r a n = .ok vs) :
    vs.length = n := by
  unfold State.memRead at h
  split at h
  · split at h
    · rename_i bs hb
      cases h
      exact ((Memory.readBytes_eq_some n _ a vs).mp hb).1
    · cases h
  · cases h

/-- A write to storage succeeds exactly within the storage, and then only that ring's bytes change. -/
theorem State.memWrite_ok {s t : State} {r : RingId} {a : Nat} {v : List Byte} (h : s.memWrite r a v = .ok t) :
    a + v.length ≤ memSize s.cfg r ∧ t = s.setRing r { s.ring r with mem := (s.ring r).mem.writeBytes a v } := by
  unfold State.memWrite at h
  split at h
  · rename_i hle
    exact ⟨hle, by cases h; rfl⟩
  · cases h

/-- An element of a payload has its size. -/
@[simp] theorem payload_elem_length (pl : Payload) (e j : Nat) : (pl.elem e j).length = e := by
  simp [Payload.elem]

/-- A slot of a ring whose capacity is a power of two lies within its storage. -/
theorem addrOf_within (cfg : Params) (r : RingId) (x : U32) (h : cap cfg r ≠ 0#32) :
    addrOf cfg r x + esize cfg r ≤ memSize cfg r := by
  have h0 : 0 < (cap cfg r).toNat := by
    rcases Nat.eq_zero_or_pos (cap cfg r).toNat with h' | h'
    · exact absurd (BitVec.eq_of_toNat_eq (by simpa using h')) h
    · exact h'
  have h1 : (slotOf cfg r x).toNat ≤ (cap cfg r).toNat - 1 := by
    unfold slotOf maskOf
    rw [BitVec.toNat_and]
    refine Nat.le_trans Nat.and_le_right ?_
    rw [BitVec.toNat_sub]
    have := (cap cfg r).isLt
    simp
    omega
  unfold addrOf memSize
  have : (slotOf cfg r x).toNat + 1 ≤ (cap cfg r).toNat := by omega
  calc (slotOf cfg r x).toNat * esize cfg r + esize cfg r = ((slotOf cfg r x).toNat + 1) * esize cfg r := by
        rw [Nat.add_mul, Nat.one_mul]
    _ ≤ (cap cfg r).toNat * esize cfg r := Nat.mul_le_mul_right _ this

end Sys2Proof.Machine
end

