-- ==== Sys2Proof/Laws/Params.lean ====
section
/-! SUPPORT. What the configuration and the operands say in terms of numbers: the test for a power of two (spec/00_scope.md
rule R8), the slot of a position (spec/20_memory.md rule R61) and the clamp of a count (spec/40 rule R122). -/

namespace Sys2Proof.Machine

/-- A number one below which shares no bit with it is a power of two. -/
theorem eq_two_pow_of_and_pred {n : Nat} (h0 : 0 < n) (h : n &&& (n - 1) = 0) : n = 2 ^ n.log2 := by
  have h1 : 2 ^ n.log2 ≤ n := Nat.log2_self_le (by omega)
  have h2 : n < 2 ^ (n.log2 + 1) := Nat.lt_log2_self
  by_contra hne
  have hp : n.testBit n.log2 = true := by rw [Nat.testBit_log2]; simpa using Nat.ne_of_gt h0
  have hq : (n - 1).testBit n.log2 = true := by
    have h3 : (n - 1).log2 = n.log2 := by
      rw [Nat.log2_eq_iff (by omega)]
      omega
    rw [← h3, Nat.testBit_log2]
    have : n - 1 ≠ 0 := by omega
    simpa using this
  have : (n &&& (n - 1)).testBit n.log2 = true := by rw [Nat.testBit_and, hp, hq]; rfl
  rw [h, Nat.zero_testBit] at this
  cases this

/-- `ispow2` of rule R8 holds of the powers of two. -/
theorem ispow2_iff (x : U32) : ispow2 x = true ↔ ∃ e : Nat, e ≤ 31 ∧ x.toNat = 2 ^ e := by
  have hx := x.isLt
  unfold ispow2
  simp only [Bool.and_eq_true, decide_eq_true_eq]
  constructor
  · rintro ⟨h0, h1⟩
    have h0' : 0 < x.toNat := by simpa [BitVec.lt_def] using h0
    have h1' : x.toNat &&& (x.toNat - 1) = 0 := by
      have h2 := congrArg BitVec.toNat h1
      rw [BitVec.toNat_and, BitVec.toNat_sub_of_le (by rw [BitVec.le_def]; simp; omega)] at h2
      simpa using h2
    have h3 := eq_two_pow_of_and_pred h0' h1'
    refine ⟨x.toNat.log2, ?_, h3⟩
    have h4 : x.toNat.log2 < 32 := (Nat.log2_lt (by omega)).mpr hx
    omega
  · rintro ⟨e, he, h⟩
    have h0 : 0 < x.toNat := by rw [h]; exact Nat.two_pow_pos e
    refine ⟨by simpa [BitVec.lt_def] using h0, BitVec.eq_of_toNat_eq ?_⟩
    rw [BitVec.toNat_and, BitVec.toNat_sub_of_le (by rw [BitVec.le_def]; simp; omega), h]
    rw [show (1#32).toNat = 1 from rfl, Nat.and_two_pow_sub_one_eq_mod]
    simp

/-- The upper bound of rule R8 on a capacity follows from its being a power of two on 32 bits. -/
theorem ispow2_le {x : U32} (h : ispow2 x = true) : x ≤ 0x80000000#32 := by
  obtain ⟨e, he, hx⟩ := (ispow2_iff x).mp h
  rw [BitVec.le_def, hx]
  exact Nat.le_trans (Nat.pow_le_pow_right (by omega) he) (by decide)

/-- The slot of a position is the position modulo the capacity (rule R61). -/
theorem slotOf_toNat {cfg : Params} {r : RingId} (x : U32) (h : ispow2 (cap cfg r) = true) :
    (slotOf cfg r x).toNat = x.toNat % (cap cfg r).toNat := by
  obtain ⟨e, he, hc⟩ := (ispow2_iff _).mp h
  have h0 : 0 < (cap cfg r).toNat := by rw [hc]; exact Nat.two_pow_pos e
  unfold slotOf maskOf
  rw [BitVec.toNat_and, BitVec.toNat_sub_of_le (by rw [BitVec.le_def]; simp; omega), hc]
  exact Nat.and_two_pow_sub_one_eq_mod _ _

/-- The address of a position's slot (rule R61). -/
theorem addrOf_eq {cfg : Params} {r : RingId} (x : U32) (h : ispow2 (cap cfg r) = true) :
    addrOf cfg r x = x.toNat % (cap cfg r).toNat * esize cfg r := by
  rw [addrOf, slotOf_toNat x h]

/-- `up-to`: the smaller of what is asked for and what is available (rule R122). -/
theorem clamp_upTo_toNat (av n : U32) : (clamp av n .upTo).toNat = min n.toNat av.toNat := by
  simp only [clamp, BitVec.le_def]
  split <;> omega

/-- `exact`: all or nothing (rule R122). -/
theorem clamp_exact_toNat (av n : U32) :
    (clamp av n .exact).toNat = if n.toNat ≤ av.toNat then n.toNat else 0 := by
  simp only [clamp, BitVec.le_def]
  split <;> rfl

end Sys2Proof.Machine
end

