-- ==== Sys2Proof/Laws/PerInstr.lean ====
section
/-! SUPPORT. The family of statements made for every instruction: its encoded word has the opcode of spec/30 rule R94 in
`OPC`, and its reserved bits are 0. One lemma per constructor. -/

namespace Sys2Proof.Laws.EncodedFields

/-- The encoded word carries the command's opcode and has its reserved bits at 0 (rules R90, R94, R95). -/
def Statement (i : Instr) : Prop := fieldOpc (encode i) = i.opcode ∧ fieldReserved (encode i) = 0#23

theorem enqBulk (n : U32) : Statement (.enqBulk n) := by simp [Statement, encode]

theorem enqBurst (n : U32) : Statement (.enqBurst n) := by simp [Statement, encode]

theorem deqBulk (n : U32) : Statement (.deqBulk n) := by simp [Statement, encode]

theorem deqBurst (n : U32) : Statement (.deqBurst n) := by simp [Statement, encode]

theorem ringCount : Statement .ringCount := by simp [Statement, encode]

theorem ringFree : Statement .ringFree := by simp [Statement, encode]

theorem thrReg (tid : U32) : Statement (.thrReg tid) := by simp [Statement, encode]

theorem thrUnreg (tid : U32) : Statement (.thrUnreg tid) := by simp [Statement, encode]

theorem quiescent (tid : U32) : Statement (.quiescent tid) := by simp [Statement, encode]

theorem start : Statement .start := by simp [Statement, encode]

theorem check (t : U64) (wait : Bool) : Statement (.check t wait) := by simp [Statement, encode]

theorem sync (tid : U32) : Statement (.sync tid) := by simp [Statement, encode]

theorem rdLock (tid : U32) : Statement (.rdLock tid) := by simp [Statement, encode]

theorem rdUnlock (tid : U32) : Statement (.rdUnlock tid) := by simp [Statement, encode]

theorem dqEnq : Statement .dqEnq := by simp [Statement, encode]

theorem dqReclaim (n : U32) : Statement (.dqReclaim n) := by simp [Statement, encode]

theorem dqDelete : Statement .dqDelete := by simp [Statement, encode]

theorem csrRd (reg : U32) (idx : U64) : Statement (.csrRd reg idx) := by simp [Statement, encode]

end Sys2Proof.Laws.EncodedFields
end

