-- ==== Sys2Proof/Laws/Updates.lean ====
section
/-! SUPPORT. One labelled line as an update of shared state and of the granted port's latches, followed by a new phase or an
answer: what is then true of the ports. And what one store to a QSBR register does. -/

namespace Sys2Proof.Machine

/-! ### The granted port -/

/-- `u` is `s` with the granted port's latches replaced by `l` and with any change to shared state. -/
structure Updated (s u : State) (l : Latches) : Prop where
  exists_ : s.granted
  cfg : u.cfg = s.cfg
  cur : u.cur = s.cur
  sched : u.sched = s.sched
  tick : u.tick = s.tick
  ports : u.ports = s.ports.modify s.cur fun q => { q with lat := l }

/-- Two changes of one entry of a list are one change. -/
@[simp] theorem list_modify_modify {α : Type} (l : List α) (i : Nat) (f g : α → α) :
    (l.modify i f).modify i g = l.modify i fun x => g (f x) := by
  apply List.ext_getElem?
  intro j
  simp only [List.getElem?_modify]
  cases l[j]? <;> simp
  split <;> rfl

/-- The granted port after a change of it. -/
theorem port_of_modify {s t : State} {f : Port → Port} (h : s.granted) (hc : t.cur = s.cur)
    (hp : t.ports = s.ports.modify s.cur f) : t.port = f s.port := by
  rw [← State.updPort_port s f h]
  exact State.port_congr _ _ hp hc

/-- A change of the granted port alone. -/
theorem onlyOwnPort_of_modify {s t : State} {f : Port → Port} (h1 : t.cfg = s.cfg) (h2 : t.cur = s.cur)
    (h3 : t.sched = s.sched) (h4 : t.tick = s.tick) (h5 : t.ports = s.ports.modify s.cur f) : OnlyOwnPort s t :=
  ⟨h1, h2, h3, h4, by rw [h5]; simp, fun p hp => by rw [h5, List.getElem?_modify]; simp [Ne.symm hp]⟩

/-- The frame of every line, in the words of the statements. -/
theorem KeepsOthers.onlyOwnPort {s t : State} (h : KeepsOthers s t) : OnlyOwnPort s t :=
  ⟨h.cfg, h.cur, h.sched, h.tick, h.count, h.others⟩

theorem Updated.lat {s u : State} {l : Latches} (h : Updated s u l) : u.lat = l := by
  have := port_of_modify h.exists_ h.cur h.ports
  simp [State.lat, this]

theorem Updated.phase {s u : State} {l : Latches} (h : Updated s u l) : u.phase = s.phase := by
  have := port_of_modify h.exists_ h.cur h.ports
  simp [State.phase, this]

theorem Updated.granted {s u : State} {l : Latches} (h : Updated s u l) : u.granted := by
  have := h.exists_
  simp only [State.granted] at *
  rw [h.ports, h.cur]
  simpa using this

/-- Nothing changed yet. -/
theorem Updated.refl {s : State} (h : s.granted) : Updated s s s.lat where
  exists_ := h
  cfg := rfl
  cur := rfl
  sched := rfl
  tick := rfl
  ports := by
    apply List.ext_getElem?
    intro j
    simp only [List.getElem?_modify]
    by_cases hj : s.cur = j
    · subst hj
      simp [State.lat, State.port, List.getD_eq_getElem?_getD]
      rw [List.getElem?_eq_getElem h]
      simp
    · simp [hj]

/-- A change of the latches. -/
theorem Updated.updLat {s u : State} {l : Latches} (h : Updated s u l) (f : Latches → Latches) :
    Updated s (u.updLat f) (f l) where
  exists_ := h.exists_
  cfg := h.cfg
  cur := h.cur
  sched := h.sched
  tick := h.tick
  ports := by simp only [State.updLat_ports, h.ports, h.cur, list_modify_modify]

/-- A change of shared state. -/
theorem Updated.shared {s u v : State} {l : Latches} (h : Updated s u l) (h1 : v.cfg = u.cfg) (h2 : v.cur = u.cur)
    (h3 : v.sched = u.sched) (h4 : v.tick = u.tick) (h5 : v.ports = u.ports) : Updated s v l where
  exists_ := h.exists_
  cfg := h1.trans h.cfg
  cur := h2.trans h.cur
  sched := h3.trans h.sched
  tick := h4.trans h.tick
  ports := h5.trans h.ports

theorem Updated.setSide {s u : State} {l : Latches} (h : Updated s u l) (r : RingId) (sd : Side) (w : SideRegs) :
    Updated s (u.setSide r sd w) l := h.shared (by simp) (by simp) (by simp) (by simp) (by simp)

theorem Updated.setA {s u : State} {l : Latches} (h : Updated s u l) (r : RingId) (sd : Side) (w : U64) :
    Updated s (u.setA r sd w) l := h.setSide r sd _

theorem Updated.setB {s u : State} {l : Latches} (h : Updated s u l) (r : RingId) (sd : Side) (w : U64) :
    Updated s (u.setB r sd w) l := h.setSide r sd _

theorem Updated.setSown {s u : State} {l : Latches} (h : Updated s u l) (r : RingId) (sd : Side) (o : Owner) :
    Updated s (u.setSown r sd o) l := h.setSide r sd _

theorem Updated.storeHead {s u : State} {l : Latches} (h : Updated s u l) (r : RingId) (sd : Side) (v : U32) :
    Updated s (u.storeHead r sd v) l := h.setSide r sd _

theorem Updated.storeTail {s u : State} {l : Latches} (h : Updated s u l) (r : RingId) (sd : Side) (v : U32) :
    Updated s (u.storeTail r sd v) l := h.shared (by simp) (by simp) (by simp) (by simp) (by simp)

/-- The line ends with `goto`. -/
theorem Updated.goto {s u : State} {l : Latches} (h : Updated s u l) (lb : Label) (st : List Seq) :
    ∃ t, (Flow.goto lb st u).outcome = .next t ∧ OnlyOwnPort s t ∧ SameShared u t ∧ t.lat = l ∧
      Continues s t lb st := by
  have hp : (u.setPhase (.busy lb st)).ports =
      s.ports.modify s.cur fun q => { q with lat := l, phase := .busy lb st } := by
    simp [State.setPhase, State.updPort, State.updPortAt, h.ports, h.cur]
  have hq := port_of_modify (t := u.setPhase (.busy lb st)) h.exists_ h.cur hp
  exact ⟨_, rfl, onlyOwnPort_of_modify h.cfg h.cur h.sched h.tick hp,
    ⟨⟨rfl, rfl⟩, ⟨rfl, rfl⟩, ⟨rfl, rfl, rfl, rfl⟩, ⟨rfl, rfl⟩, rfl⟩, by simp [State.lat, hq], by simp [State.phase, hq],
    by simp [hq], by simp [hq]⟩

/-- The line ends with an answer. -/
theorem Updated.respond {s u : State} {l : Latches} (h : Updated s u l) (st : Status) (n : U32) (v : U64)
    (pl : List Element) :
    ∃ t, (Flow.ended (u.respondWith st n v pl)).outcome = .next t ∧ OnlyOwnPort s t ∧ SameShared u t ∧ t.lat = l ∧
      Answered s t st n v pl := by
  have hp : (u.respondWith st n v pl).ports = s.ports.modify s.cur fun q =>
      { q with lat := l, phase := .idle, rspch := q.rspch ++ [{ word := responseWord st n v, payload := pl }] } := by
    simp [State.respondWith, State.updPort, State.updPortAt, h.ports, h.cur]
  have hq := port_of_modify (t := u.respondWith st n v pl) h.exists_ h.cur hp
  exact ⟨_, rfl, onlyOwnPort_of_modify h.cfg h.cur h.sched h.tick hp,
    ⟨⟨rfl, rfl⟩, ⟨rfl, rfl⟩, ⟨rfl, rfl, rfl, rfl⟩, ⟨rfl, rfl⟩, rfl⟩, by simp [State.lat, hq], by simp [State.phase, hq],
    by simp [hq], by simp [hq]⟩

/-- The line raises a fault. -/
theorem Updated.raise {s u : State} {l : Latches} (h : Updated s u l) (f : FaultBit) :
    ∃ t, (raiseFault f u).outcome = .next t ∧ OnlyOwnPort s t ∧ SameShared (u.setFault f) t ∧ t.lat = l ∧
      Answered s t .eFault 0#32 0#64 [] :=
  (h.shared (v := u.setFault f) rfl rfl rfl rfl rfl).respond _ _ _ _

/-! ### A side of a ring -/

/-- Unchanged rings have unchanged sides and storage. -/
theorem side_of_sameRings {s t : State} (h : SameRings s t) (r : RingId) (sd : Side) : t.side r sd = s.side r sd := by
  simp [State.side, State.ring_congr s t h.1 h.2 r]

theorem mem_of_sameRings {s t : State} (h : SameRings s t) (r : RingId) : (t.ring r).mem = (s.ring r).mem := by
  simp [State.ring_congr s t h.1 h.2 r]

/-- A store to one side leaves everything else. -/
theorem onlySide_of_setSide {s t : State} {r : RingId} {sd : Side} {w : SideRegs} (h : SameShared (s.setSide r sd w) t) :
    SameOutsideRings s t ∧ OnlySide s t r sd ∧ t.side r sd = w := by
  obtain ⟨hr, ht, hq, hf, hc⟩ := h
  refine ⟨⟨⟨ht.1.trans (by simp), ht.2.trans (by simp)⟩, ⟨hq.1.trans (by simp), hq.2.1.trans (by simp),
    hq.2.2.1.trans (by simp), hq.2.2.2.trans (by simp)⟩, ⟨hf.1.trans (by simp), hf.2.trans (by simp)⟩,
    hc.trans (by simp)⟩, ⟨fun r' => ?_, fun r' sd' hd => ?_⟩, ?_⟩
  · rw [mem_of_sameRings hr]
    simp
  · rw [side_of_sameRings hr]
    exact State.setSide_side_other s r r' sd sd' w hd
  · rw [side_of_sameRings hr]
    simp

/-- The same where nothing was stored. -/
theorem onlySide_of_same {s t : State} (r : RingId) (sd : Side) (h : SameShared s t) :
    SameOutsideRings s t ∧ OnlySide s t r sd ∧ t.side r sd = s.side r sd :=
  ⟨h.2, ⟨fun _ => mem_of_sameRings h.1 _, fun _ _ _ => side_of_sameRings h.1 _ _⟩, side_of_sameRings h.1 _ _⟩

/-! ### A QSBR register -/

theorem setCnt_cntOf (s : State) (i : Nat) (v : U64) (h : i < s.cnt.length) :
    (s.setCnt i v).cntOf i = v ∧ ∀ j, j ≠ i → (s.setCnt i v).cntOf j = s.cntOf j := by
  refine ⟨by simp [State.setCnt, State.cntOf, List.getD_eq_getElem?_getD, h], fun j hj => ?_⟩
  simp [State.setCnt, State.cntOf, List.getD_eq_getElem?_getD, Ne.symm hj]

theorem setLock_lockOf (s : State) (i : Nat) (v : U32) (h : i < s.lockcnt.length) :
    (s.setLock i v).lockOf i = v ∧ ∀ j, j ≠ i → (s.setLock i v).lockOf j = s.lockOf j := by
  refine ⟨by simp [State.setLock, State.lockOf, List.getD_eq_getElem?_getD, h], fun j hj => ?_⟩
  simp [State.setLock, State.lockOf, List.getD_eq_getElem?_getD, Ne.symm hj]

theorem bit64_getLsbD (i j : Nat) (hj : j < 64) : (bit64 i).getLsbD j = decide (i = j) := by
  by_cases h : i = j
  · subst h
    simp [bit64, hj]
  · simp [bit64, hj, h]
    omega

theorem setRegd_regd (s : State) (i : Nat) (h : i < 64 * s.bitmap.length) :
    (s.setRegd i).regd i = true ∧ ∀ j, j ≠ i → (s.setRegd i).regd j = s.regd j := by
  have hi : i / 64 < s.bitmap.length := by omega
  simp only [State.setRegd, State.regd, List.getD_eq_getElem?_getD, List.getElem?_modify]
  constructor
  · rw [List.getElem?_eq_getElem hi]
    simp [bit64_getLsbD _ _ (Nat.mod_lt i (by omega))]
  · intro j hj
    by_cases hw : i / 64 = j / 64
    · rw [← hw, List.getElem?_eq_getElem hi]
      have : i % 64 ≠ j % 64 := by omega
      simp [bit64_getLsbD _ _ (Nat.mod_lt j (by omega)), this]
    · simp [hw]

theorem clearRegd_regd (s : State) (i : Nat) (h : i < 64 * s.bitmap.length) :
    (s.clearRegd i).regd i = false ∧ ∀ j, j ≠ i → (s.clearRegd i).regd j = s.regd j := by
  have hi : i / 64 < s.bitmap.length := by omega
  simp only [State.clearRegd, State.regd, List.getD_eq_getElem?_getD, List.getElem?_modify]
  constructor
  · rw [List.getElem?_eq_getElem hi]
    simp [bit64_getLsbD _ _ (Nat.mod_lt i (by omega))]
  · intro j hj
    by_cases hw : i / 64 = j / 64
    · rw [← hw, List.getElem?_eq_getElem hi]
      have : i % 64 ≠ j % 64 := by omega
      simp [bit64_getLsbD _ _ (Nat.mod_lt j (by omega)), this]
      intro
      omega
    · simp [hw]

/-! ### `TKINC` (spec/42 rules R198, R199) -/

theorem tkinc_last {s : State} {k : State → Flow} (h : s.token.toNat = 2 ^ 64 - 1) :
    tkinc s k = raiseFault .tokwrap s := by
  have : s.token = 0xFFFFFFFFFFFFFFFF#64 := BitVec.eq_of_toNat_eq (by rw [h]; rfl)
  simp [tkinc, this]

theorem tkinc_below {s : State} {k : State → Flow} (h : s.token.toNat < 2 ^ 64 - 1) :
    tkinc s k = k ((s.setToken (s.token + 1#64)).updLat fun l => { l with tok := s.token + 1#64 }) := by
  have : s.token ≠ 0xFFFFFFFFFFFFFFFF#64 := by
    intro e
    rw [e] at h
    simp at h
  simp [tkinc, this]

/-! ### The `RINGOP` of a command -/

/-- What a command does when its `RINGOP` returns (spec/41 rules R170 to R173, spec/43 rule R224). -/
def afterRingopOf (i : Instr) : State → Flow :=
  match ringopUse i with
  | some (.fifo, .prod) => enqDone
  | some (.fifo, .cons) => deqDone
  | some (.defer, _) => dqEnqPushed
  | none => fun _ => .stop .strayPhase

/-- A command's step at a line of its `RINGOP`. -/
theorem exec_ringop_line {i : Instr} {r : RingId} {sd : Side} {s : State} {l : Label} {st : List Seq}
    (hi : ringopUse i = some (r, sd)) (h : s.atLine l (.ringop :: st)) :
    exec i s = ((ringopLine r sd l st s).within .ringop (afterRingopOf i)).outcome := by
  cases i <;> simp [ringopUse, ringRequest] at hi <;> obtain ⟨rfl, rfl⟩ := hi
  iterate 4 exact execRingop_line h
  exact execDqEnq_ringop h

/-- The end of a `RINGOP`, in the words of the statements. -/
theorem afterRingopOf_outcome {i : Instr} {r : RingId} {sd : Side} {s u : State} {l : Latches}
    (hi : ringopUse i = some (r, sd)) (h : Updated s u l) :
    ∃ t, (afterRingopOf i u).outcome = .next t ∧ OnlyOwnPort s t ∧ SameShared u t ∧ AfterRingop i s t l := by
  have hl := h.lat
  cases i <;> simp [ringopUse, ringRequest] at hi <;> obtain ⟨rfl, rfl⟩ := hi
  · obtain ⟨t, a, b, c, d, e⟩ := h.respond .ok l.k 0#64 []
    exact ⟨t, by rw [← a]; simp [afterRingopOf, ringopUse, ringRequest, enqDone, hl, State.respond], b, c, e, d⟩
  · obtain ⟨t, a, b, c, d, e⟩ := h.respond .ok l.k 0#64 []
    exact ⟨t, by rw [← a]; simp [afterRingopOf, ringopUse, ringRequest, enqDone, hl, State.respond], b, c, e, d⟩
  · obtain ⟨t, a, b, c, d, e⟩ := h.respond .ok l.k 0#64 (l.dst.take l.k.toNat)
    exact ⟨t, by rw [← a]; simp [afterRingopOf, ringopUse, ringRequest, deqDone, hl], b, c, e, d⟩
  · obtain ⟨t, a, b, c, d, e⟩ := h.respond .ok l.k 0#64 (l.dst.take l.k.toNat)
    exact ⟨t, by rw [← a]; simp [afterRingopOf, ringopUse, ringRequest, deqDone, hl], b, c, e, d⟩
  · obtain ⟨t, a, b, c, d, e⟩ := (h.updLat fun x => { x with kq := decide (x.k ≠ 0#32) }).goto .n1 [.countseq]
    exact ⟨t, by rw [← a]; rfl, b, c, e, d⟩

end Sys2Proof.Machine
end

