-- ==== Sys2Proof/Tests/Slice0.lean ====
section
/-! SUPPORT. Tests: refusals of the well-formedness check and of the decoder, one written-out word per command, at most two
one-step tests per command, and for every statement with hypotheses a state that meets them. Expected values are worked
out by hand from the rules each test names. -/

open Sys2Proof Sys2Proof.Machine

namespace Sys2Proof.Tests

/-! ### Well-formedness (spec/30 rule R93) -/

theorem test_wf_enqueue : (Instr.enqBulk 2#32).wf defaultParams ⟨8, [1#8]⟩ = true := by decide

theorem test_wf_enqueue_short : (Instr.enqBulk 2#32).wf defaultParams ⟨7, [1#8]⟩ = false := by decide

theorem test_wf_burst_long : (Instr.enqBurst 2#32).wf defaultParams ⟨9, []⟩ = false := by decide

theorem test_wf_dqEnq_missing : Instr.dqEnq.wf defaultParams ⟨0, []⟩ = false := by decide

theorem test_wf_dequeue_with_payload : (Instr.deqBulk 1#32).wf defaultParams ⟨4, []⟩ = false := by decide

theorem test_wf_start_with_payload : Instr.start.wf defaultParams ⟨1, []⟩ = false := by decide

/-! ### Decoding (spec/30 rules R90, R94, R95); the words of rule R106 where it gives one -/

theorem test_decode_enqBulk : decodeTableWord 128 0x00000000000000000000000400000001 = some (.enqBulk 4#32) := by decide
theorem test_decode_enqBurst : decodeTableWord 128 0x00000000000000000000000300000002 = some (.enqBurst 3#32) := by decide
theorem test_decode_deqBulk :
    decodeTableWord 128 0x0000000000000000FFFFFFFE00000003 = some (.deqBulk 0xFFFFFFFE#32) := by decide
theorem test_decode_deqBurst : decodeTableWord 128 0x00000000000000000000000200000004 = some (.deqBurst 2#32) := by decide
theorem test_decode_ringCount : decodeTableWord 128 0x00000000000000000000000000000005 = some .ringCount := by decide
theorem test_decode_ringFree : decodeTableWord 128 0x00000000000000000000000000000006 = some .ringFree := by decide
theorem test_decode_thrReg : decodeTableWord 128 0x00000000000000000000000300000010 = some (.thrReg 3#32) := by decide
theorem test_decode_thrUnreg : decodeTableWord 128 0x00000000000000000000000200000011 = some (.thrUnreg 2#32) := by decide
theorem test_decode_quiescent :
    decodeTableWord 128 0x00000000000000000000000100000012 = some (.quiescent 1#32) := by decide
theorem test_decode_start : decodeTableWord 128 0x00000000000000000000000000000013 = some .start := by decide
theorem test_decode_check_wait :
    decodeTableWord 128 0x00000000000000050000000000000114 = some (.check 5#64 true) := by decide
theorem test_decode_check_no_wait :
    decodeTableWord 128 0x00000000000000050000000000000014 = some (.check 5#64 false) := by decide
theorem test_decode_sync : decodeTableWord 128 0x0000000000000000FFFFFFFF00000015 = some .syncNr := by decide
theorem test_decode_rdLock : decodeTableWord 128 0x00000000000000000000000300000016 = some (.rdLock 3#32) := by decide
theorem test_decode_rdUnlock : decodeTableWord 128 0x00000000000000000000000300000017 = some (.rdUnlock 3#32) := by decide
theorem test_decode_dqEnq : decodeTableWord 128 0x00000000000000000000000000000020 = some .dqEnq := by decide
theorem test_decode_dqReclaim :
    decodeTableWord 128 0x00000000000000000000000800000021 = some (.dqReclaim 8#32) := by decide
theorem test_decode_dqDelete : decodeTableWord 128 0x00000000000000000000000000000022 = some .dqDelete := by decide
theorem test_decode_csrRd :
    decodeTableWord 128 0x00000000000000030000100100000030 = some (.csrRd 0x1001#32 3#64) := by decide

theorem test_decode_reserved_bit : decodeWord 0x00000000000000000000000080000013#128 = .error .reservedBits := by decide
theorem test_decode_opcode_0 : decodeWord 0#128 = .error .opcode := by decide
theorem test_decode_opcode_07 : decodeWord 7#128 = .error .opcode := by decide
theorem test_decode_wait_flag : decodeWord 0x00000000000000000000000000000113#128 = .error .waitFlag := by decide
theorem test_decode_arg32 : decodeWord 0x00000000000000000000000100000005#128 = .error .arg32 := by decide
theorem test_decode_arg64 : decodeWord 0x00000000000000010000000400000001#128 = .error .arg64 := by decide

theorem test_message_payload_size :
    decodeMessage defaultParams { word := encode (.enqBulk 4#32), payload := ⟨15, []⟩ } = .error .payloadSize := by decide

/-! ### States for one step -/

/-- A configuration whose four disciplines on ring 0 and ring 1 are chosen; one port, two threads, capacity 4. -/
def cfgOf (p c d : Sync) : Params :=
  { defaultParams with nports := 1, c0 := 4#32, psync0 := p, csync0 := c, maxThreads := 2#32, dqPsync := d }

/-- The state after reset, its port 0 at that line of that command, its latches changed. -/
def busyAt (cfg : Params) (i : Instr) (l : Label) (st : List Seq) (f : Latches → Latches) : State :=
  (State.resetWith cfg).updPortAt 0 fun q =>
    { q with phase := .busy l st, lat := f { Latches.reset with cmd := encode i } }

/-- The next state of a step. -/
def nextOf (x : Host.Outcome State Fault Refusal) : Option State :=
  match x with
  | .next t => some t
  | _ => none

/-- The response words on a port's channel after a step. -/
def answersOf (p : Nat) (x : Host.Outcome State Fault Refusal) : Option (List U128) :=
  (nextOf x).bind fun t => (t.ports[p]?).map fun q => q.rspch.map fun r => r.word

/-- Ring 0 holding the elements `01..`, `02..`, `03..` at positions 0, 1, 2. -/
def filledMem : Memory := (List.range 12).map fun a => (a, BitVec.ofNat 8 (a / 4 + 1))

/-! ### One step of each command -/

/-- R125: `M3` moves the head from `L.OH` to `L.OH + L.K`, across the wrap of the counter. -/
theorem test_enqBulk_reserve :
    (nextOf (exec (.enqBulk 2#32) ((busyAt (cfgOf .mt .mt .rts) (.enqBulk 2#32) .m3 [.ringop, .reserve]
      fun l => { l with oh := 0xFFFFFFFF#32, k := 2#32 }).setA .fifo .prod 0x00000000FFFFFFFF#64))).map
        (fun t => (t.side .fifo .prod).a) = some 1#64 := by decide

/-- R130: `CP` stores element 0 at the slot of `L.OH` and element 1 at the next, which is slot 0. -/
theorem test_enqBurst_copy :
    (nextOf (exec (.enqBurst 2#32) (busyAt (cfgOf .mt .mt .rts) (.enqBurst 2#32) .cp [.ringop, .copy]
      fun l => { l with oh := 3#32, k := 2#32, src := ⟨8, [0xA0#8, 0xA1#8, 0xA2#8, 0xA3#8, 0xB0#8]⟩ }))).map
        (fun t => (t.fifo.mem.read 12, t.fifo.mem.read 15, t.fifo.mem.read 0, t.fifo.mem.read 1, t.fifo.mem.read 4)) =
      some (some 0xA0#8, some 0xA3#8, some 0xB0#8, some 0#8, none) := by decide

/-- R122: `ENQ_BURST` takes what is free; 3 of 4 slots are in use. -/
theorem test_enqBurst_clamp :
    (nextOf (exec (.enqBurst 3#32) ((busyAt (cfgOf .mt .mt .rts) (.enqBurst 3#32) .m2 [.ringop, .reserve]
      fun l => { l with oh := 5#32, n := 3#32, beh := .upTo }).setB .fifo .cons 2#64))).map
        (fun t => (t.lat.k, t.phase)) = some (1#32, .busy .m3 [.ringop, .reserve]) := by decide

/-- R122, R170: `ENQ_BULK` of as many into the same space answers `(OK, 0, 0)`. -/
theorem test_enqBulk_exact :
    answersOf 0 (exec (.enqBulk 3#32) ((busyAt (cfgOf .mt .mt .rts) (.enqBulk 3#32) .m2 [.ringop, .reserve]
      fun l => { l with oh := 5#32, n := 3#32, beh := .exact }).setB .fifo .cons 2#64)) = some [0#128] := by decide

/-- R130: a dequeue's `CP` reads its slots in position order. -/
theorem test_deqBulk_copy :
    (nextOf (exec (.deqBulk 2#32) { busyAt (cfgOf .mt .mt .rts) (.deqBulk 2#32) .cp [.ringop, .copy]
      (fun l => { l with oh := 1#32, k := 2#32 }) with fifo := { Ring.reset with mem := filledMem } })).map
        (fun t => t.lat.dst) = some [[2#8, 2#8, 2#8, 2#8], [3#8, 3#8, 3#8, 3#8]] := by decide

/-- R172, R133: `M5` stores the tail and answers with the count and the elements. -/
theorem test_deqBulk_publish :
    (nextOf (exec (.deqBulk 1#32) (busyAt (cfgOf .mt .mt .rts) (.deqBulk 1#32) .m5 [.ringop, .publish]
      fun l => { l with oh := 1#32, k := 1#32, dst := [[7#8]] }))).map
        (fun t => (t.tailview .fifo .cons, t.port.rspch)) =
      some (2#32, [{ word := 0x00000000000000000000000100000000#128, payload := [[7#8]] }]) := by decide

/-- R136: the last publisher moves the tail position to the head it loaded. -/
theorem test_deqBurst_rts_last :
    (nextOf (exec (.deqBurst 1#32) ((busyAt (cfgOf .mt .rts .rts) (.deqBurst 1#32) .t7 [.ringop, .publish]
      fun l => { l with otw := 0x0000000100000004#64, hw := 0x0000000200000006#64 }).setB .fifo .cons
        0x0000000100000004#64))).map (fun t => (t.side .fifo .cons).b) = some 0x0000000200000006#64 := by decide

/-- R136: a publisher that is not the last advances the counter only. -/
theorem test_deqBurst_rts_not_last :
    (nextOf (exec (.deqBurst 1#32) ((busyAt (cfgOf .mt .rts .rts) (.deqBurst 1#32) .t7 [.ringop, .publish]
      fun l => { l with otw := 0x0000000100000004#64, hw := 0x0000000300000006#64 }).setB .fifo .cons
        0x0000000100000004#64))).map (fun t => (t.side .fifo .cons).b) = some 0x0000000200000004#64 := by decide

/-- R176: the difference of the tails, modulo 2^32. -/
theorem test_ringCount :
    answersOf 0 (exec .ringCount ((busyAt (cfgOf .mt .mt .rts) .ringCount .n2 [.countseq]
      fun l => { l with ct := 0xFFFFFFFF#32 }).setB .fifo .prod 1#64)) =
        some [0x00000000000000000000000200000000#128] := by decide

/-- R175, R176: a stale consumer tail makes the difference 5, clamped to C = 4: no space. -/
theorem test_ringFree :
    answersOf 0 (exec .ringFree ((busyAt (cfgOf .mt .mt .rts) .ringFree .n2 [.countseq]
      fun l => { l with ct := 0xFFFFFFFF#32 }).setB .fifo .prod 4#64)) = some [0#128] := by decide

/-- R192: the new thread's counter is the current token. -/
theorem test_thrReg :
    (nextOf (exec (.thrReg 1#32) ((busyAt (cfgOf .mt .mt .rts) (.thrReg 1#32) .g1 [] id).setToken 7#64))).map
      (fun t => (t.bitmap, t.cnt, t.numThreads)) = some ([2#64], [0#64, 7#64], 1#32) := by decide

/-- R192: a thread registered twice answers `E_ALREADY`, even with a lock count. -/
theorem test_thrReg_twice :
    answersOf 0 (exec (.thrReg 1#32) (((busyAt (cfgOf .mt .mt .rts) (.thrReg 1#32) .g1 [] id).setRegd 1).setLock 1 1#32)) =
      some [2#128] := by decide

/-- R193: only the bit and the number of threads change. -/
theorem test_thrUnreg :
    (nextOf (exec (.thrUnreg 1#32) { busyAt (cfgOf .mt .mt .rts) (.thrUnreg 1#32) .u1 [] id with
      bitmap := [3#64], numThreads := 2#32, cnt := [4#64, 5#64] })).map
      (fun t => (t.bitmap, t.cnt, t.numThreads)) = some ([1#64], [4#64, 5#64], 1#32) := by decide

theorem test_thrUnreg_unknown :
    answersOf 0 (exec (.thrUnreg 1#32) (busyAt (cfgOf .mt .mt .rts) (.thrUnreg 1#32) .u1 [] id)) = some [4#128] := by
  decide

/-- R194: `Q2` stores the token that `Q1` loaded, not the present one. -/
theorem test_quiescent :
    (nextOf (exec (.quiescent 0#32) ((busyAt (cfgOf .mt .mt .rts) (.quiescent 0#32) .q2 []
      fun l => { l with qt := 5#64 }).setToken 9#64))).map (fun t => t.cnt) = some [5#64, 0#64] := by decide

/-- R194: a thread inside its critical section answers `E_LOCKED`. -/
theorem test_quiescent_locked :
    answersOf 0 (exec (.quiescent 0#32) (((busyAt (cfgOf .mt .mt .rts) (.quiescent 0#32) .q1 [] id).setRegd 0).setLock 0
      1#32)) = some [3#128] := by decide

/-- R195: the response carries the new token. -/
theorem test_start :
    answersOf 0 (exec .start ((busyAt (cfgOf .mt .mt .rts) .start .a1 [] id).setToken 6#64)) =
      some [0x00000000000000070000000000000000#128] := by decide

/-- R199: at the last token `START` answers `E_FAULT` and sets bit 2 of `FAULT`. -/
theorem test_start_wrap :
    (nextOf (exec .start ((busyAt (cfgOf .mt .mt .rts) .start .a1 [] id).setToken 0xFFFFFFFFFFFFFFFF#64))).map
      (fun t => (t.token, t.fault, t.port.rspch.map fun r => r.word)) =
        some (0xFFFFFFFFFFFFFFFF#64, 4#64, [10#128]) := by decide

/-- R202: a counter below the token ends a check that does not wait with 0. -/
theorem test_check_lagging :
    answersOf 0 (exec (.check 5#64 false) { busyAt (cfgOf .mt .mt .rts) (.check 5#64 false) .v3 [.checkseq]
      (fun l => { l with t := 5#64, bm := 2#64 }) with cnt := [9#64, 4#64] }) = some [0#128] := by decide

/-- R202, R204: `V4` raises `ACKED_TOKEN` to the least counter and the check succeeds. -/
theorem test_check_ack :
    (nextOf (exec (.check 5#64 false) (busyAt (cfgOf .mt .mt .rts) (.check 5#64 false) .v4 [.checkseq]
      fun l => { l with minc := 6#64, seen := true }))).map
      (fun t => (t.acked, t.port.rspch.map fun r => r.word)) =
        some (6#64, [0x00000000000000010000000000000000#128]) := by decide

/-- R197: a reader inside its critical section is refused before a token is issued. -/
theorem test_sync_locked :
    (nextOf (exec (.sync 0#32) (((busyAt (cfgOf .mt .mt .rts) (.sync 0#32) .y1 [] id).setRegd 0).setLock 0 1#32))).map
      (fun t => (t.token, t.port.rspch.map fun r => r.word)) = some (0#64, [3#128]) := by decide

/-- R197: a caller that is no reader goes to the waiting check of the token it has issued. -/
theorem test_sync_no_reader :
    (nextOf (exec .syncNr ((busyAt (cfgOf .mt .mt .rts) .syncNr .y1 [] id).setToken 3#64))).map
      (fun t => (t.phase, t.lat.t, t.lat.wt)) = some (.busy .v1 [.checkseq], 4#64, true) := by decide

theorem test_rdLock :
    (nextOf (exec (.rdLock 1#32) ((busyAt (cfgOf .mt .mt .rts) (.rdLock 1#32) .l1 [] id).setLock 1 2#32))).map
      (fun t => t.lockcnt) = some [0#32, 3#32] := by decide

/-- R200: at its greatest value the count answers `E_LOCKRANGE`. -/
theorem test_rdLock_range :
    answersOf 0 (exec (.rdLock 1#32) ((busyAt (cfgOf .mt .mt .rts) (.rdLock 1#32) .l1 [] id).setLock 1 0xFFFFFFFF#32)) =
      some [9#128] := by decide

theorem test_rdUnlock :
    (nextOf (exec (.rdUnlock 0#32) ((busyAt (cfgOf .mt .mt .rts) (.rdUnlock 0#32) .l2 [] id).setLock 0 2#32))).map
      (fun t => t.lockcnt) = some [1#32, 0#32] := by decide

theorem test_rdUnlock_range :
    answersOf 0 (exec (.rdUnlock 0#32) (busyAt (cfgOf .mt .mt .rts) (.rdUnlock 0#32) .l2 [] id)) = some [9#128] := by
  decide

/-- R221, R224: `D1` builds the entry: the new token in 8 bytes, least significant first, then the element. -/
theorem test_dqEnq_entry :
    (nextOf (exec .dqEnq ((busyAt (cfgOf .mt .mt .rts) .dqEnq .d1 []
      fun l => { l with src := ⟨4, [0xA0#8, 0xA1#8]⟩ }).setToken 0x0102#64))).map
      (fun t => (t.lat.src.bytes, t.phase)) =
        some ([0x03#8, 0x01#8, 0#8, 0#8, 0#8, 0#8, 0#8, 0#8, 0xA0#8, 0xA1#8, 0#8, 0#8],
          .busy .t1 [.ringop, .reserve]) := by decide

/-- R223: a killed queue answers `E_NODQ`. -/
theorem test_dqEnq_dead :
    answersOf 0 (exec .dqEnq (busyAt (cfgOf .mt .mt .rts) .dqEnq .d1 [] id).killDq) = some [6#128] := by decide

/-- R222, R103: `X2` pops one entry and emits its FREE message; the pass ends at its limit. -/
theorem test_dqReclaim_free :
    (nextOf (exec (.dqReclaim 1#32) (busyAt (cfgOf .mt .mt .rts) (.dqReclaim 1#32) .x2 [.reclaimseq]
      fun l => { l with ent := [1#8, 0#8, 0#8, 0#8, 0#8, 0#8, 0#8, 0#8, 0xA0#8, 0xA1#8], lim := .num 1#32 }))).map
      (fun t => (t.freech, (t.side .defer .cons).a, t.port.rspch.map fun r => r.word)) =
        some ([{ ctx := 0xC0FFEE#64, element := [0xA0#8, 0xA1#8], count := 1#32 }], 0x0000000100000001#64,
          [0x00000000000000000000000100000000#128]) := by decide

/-- R137, R222, R225: a blocked pass gives the entry back. -/
theorem test_dqReclaim_blocked :
    (nextOf (exec (.dqReclaim 4#32) ((busyAt (cfgOf .mt .mt .rts) (.dqReclaim 4#32) .h5 [.reclaimseq, .cancel]
      fun l => { l with oh := 2#32, k := 1#32 }).setA .defer .cons 0x0000000200000003#64))).map
      (fun t => ((t.side .defer .cons).a, t.port.rspch.map fun r => r.word)) =
        some (0x0000000200000002#64, [0#128]) := by decide

/-- R226: a blocked `DQ_DELETE` answers `E_PENDING` with the number freed; the queue lives. -/
theorem test_dqDelete_pending :
    (nextOf (exec .dqDelete (busyAt (cfgOf .mt .mt .rts) .dqDelete .h5 [.reclaimseq, .cancel]
      fun l => { l with freed := 1#32, lim := .inf }))).map (fun t => (t.dqAlive, t.port.rspch.map fun r => r.word)) =
        some (true, [0x00000000000000000000000100000005#128]) := by decide

theorem test_dqDelete_ends :
    (nextOf (exec .dqDelete (busyAt (cfgOf .mt .mt .rts) .dqDelete .z1 [] fun l => { l with freed := 2#32 }))).map
      (fun t => (t.status, t.port.rspch.map fun r => r.word)) =
        some (7#64, [0x00000000000000000000000200000000#128]) := by decide

/-- R240, R40: `CNT[1]`. -/
theorem test_csrRd :
    answersOf 0 (exec (.csrRd 0x1001#32 1#64) { busyAt (cfgOf .mt .mt .rts) (.csrRd 0x1001#32 1#64) .c1 [] id with
      cnt := [3#64, 9#64] }) = some [0x00000000000000090000000000000000#128] := by decide

/-- R98: an index out of range answers `E_INVAL` at acceptance. -/
theorem test_csrRd_invalid :
    answersOf 0 (step (State.reset.withFetchWord 128 0x00000000000000040000100100000030)) = some [1#128] := by decide

/-! ### The host's entry point -/

/-- The next step accepts the placed command, and it is then at its first line. -/
theorem test_withFetchWord :
    (nextOf (step (State.reset.withFetchWord 128 0x00000000000000000000000400000001))).map (fun t => t.phase) =
      some (.busy .m1 [.ringop, .reserve]) := by decide

/-- R95: an illegal word is consumed and answered. -/
theorem test_withFetchWord_illegal :
    (nextOf (step (State.reset.withFetchWord 128 7))).map
      (fun t => (t.phase, t.port.cmdch, t.port.rspch.map fun r => r.word)) = some (.idle, [], [7#128]) := by decide

/-- R97: with the ring invalid (C0 = 3) a ring command answers `E_CFG`. -/
theorem test_unit_check :
    answersOf 0 (step ((State.resetWith { defaultParams with c0 := 3#32 }).withFetchWord 128 5)) = some [8#128] := by decide

/-! ### Witnesses: for every statement with hypotheses, states and operands that meet them, clause by clause -/

/-- The next state, where there is one. -/
def afterStep (s : State) : State := (nextOf (step s)).getD s

theorem afterStep_eq {s : State} (h : (nextOf (step s)).isSome = true) : step s = .next (afterStep s) := by
  unfold afterStep
  cases hx : step s <;> simp_all [nextOf]

theorem exists_next {x : Host.Outcome State Fault Refusal} {P : State → Bool} (h : (nextOf x).any P = true) :
    ∃ t, x = .next t ∧ P t = true := by
  cases x <;> simp_all [nextOf]

/-- The hypotheses of the statements about the lines of a `RINGOP`. -/
abbrev ringopAt (i : Instr) (r : RingId) (sd : Side) (d : Sync) (s : State) (l : Label) (st : List Seq) : Prop :=
  ringopUse i = some (r, sd) ∧ syncOf s.cfg r sd = d ∧ s.atLine l st

/-- What `M2`, `S2`, `H2`, `T3` compute. -/
def kOf (s : State) (r : RingId) (sd : Side) : U32 :=
  clamp (avail s.cfg r sd s.lat.oh (s.tailview r sd.opp)) s.lat.n s.lat.beh

/-- A port at a line of `ENQ_BULK 1`, all disciplines on ring 0 being `d`, with `L.K = 1`. -/
def enqAt (d : Sync) (l : Label) (st : List Seq) (f : Latches → Latches) : State :=
  busyAt (cfgOf d d .rts) (.enqBulk 1#32) l st fun x => f { x with n := 1#32, k := 1#32 }

/-- The same of `DEQ_BURST 1`. -/
def deqAt (d : Sync) (l : Label) (st : List Seq) (f : Latches → Latches) : State :=
  busyAt (cfgOf d d .rts) (.deqBurst 1#32) l st fun x => f { x with n := 1#32, beh := .upTo, k := 1#32 }

theorem witness_encodeDecode : decodeWord (encode (.csrRd 0xFFFFFFFF#32 0xFFFFFFFFFFFFFFFF#64)) =
    .ok (.csrRd 0xFFFFFFFF#32 0xFFFFFFFFFFFFFFFF#64) := by decide

/-- Port 0 of the state after reset, with the command of those bits waiting and granted next. -/
def waitingFor (cfg : Params) (i : Instr) : State := (State.resetWith cfg).withFetchWord 128 (encode i).toNat

theorem witness_stepRunsCommand_idle :
    let s := waitingFor defaultParams .start
    s.sched = .grant 0 :: [] ∧ ∃ q m, s.ports[0]? = some q ∧ q.phase = .idle ∧ q.cmdch = m :: [] ∧
      decodeMessage s.cfg m = .ok .start := ⟨rfl, _, _, rfl, rfl, rfl, by decide⟩

theorem witness_stepRunsCommand_busy :
    let s := { enqAt .mt .m1 [.ringop, .reserve] id with sched := [.grant 0] }
    s.sched = .grant 0 :: [] ∧ ∃ q, s.ports[0]? = some q ∧ q.phase = .busy .m1 [.ringop, .reserve] ∧
      decodeWord q.lat.cmd = .ok (.enqBulk 1#32) := ⟨rfl, _, rfl, rfl, by decide⟩

theorem witness_stepRunsCommand_empty :
    let s := { State.reset with sched := [.grant 3] }
    s.sched = .grant 3 :: [] ∧ ∃ q, s.ports[3]? = some q ∧ q.phase = .idle ∧ q.cmdch = [] := ⟨rfl, _, rfl, rfl, rfl⟩

theorem witness_stepRunsCommand_host :
    ({ State.reset with sched := [.send 3 ⟨5#128, ⟨0, []⟩⟩] } : State).sched = .send 3 ⟨5#128, ⟨0, []⟩⟩ :: [] ∧
    ({ State.reset with sched := [.takeRsp 0] } : State).sched = .takeRsp 0 :: [] ∧
    ({ State.reset with sched := [.takeFree] } : State).sched = .takeFree :: [] ∧ State.reset.sched = [] :=
  ⟨rfl, rfl, rfl, rfl⟩

/-- The free event is some event or none; nothing says which. -/
theorem witness_stepRunsCommand_free :
    (∃ e, Config.freeEvent State.reset.tick = some e) ∨ Config.freeEvent State.reset.tick = none := by
  cases Config.freeEvent State.reset.tick with
  | none => exact .inr rfl
  | some e => exact .inl ⟨e, rfl⟩

/-- A waiting message for each answer of acceptance: no decode, unit invalid, operand error at its boundary
`tid = MAX_THREADS`, count 0, and accepted at `tid = MAX_THREADS - 1`, with a wait operand, and with a count of 1. -/
theorem witness_acceptance :
    (decodeMessage defaultParams ⟨7#128, ⟨0, []⟩⟩ = .error .opcode ∧
      ((waitingFor defaultParams .start).placeCommand ⟨7#128, ⟨0, []⟩⟩).sched.head? = some (.grant 0)) ∧
    (waitingFor { defaultParams with maxThreads := 0#32 } .start).unitOk (unitOf .start) = false ∧
    (let s := waitingFor defaultParams (.thrReg 4#32);
      s.unitOk (unitOf (.thrReg 4#32)) = true ∧ operandErrorOf s (.thrReg 4#32) = true) ∧
    zeroCountOf (.deqBulk 0#32) = true ∧
    (∀ i ∈ [Instr.thrReg 3#32, .check 0#64 true, .check 0xFFFFFFFFFFFFFFFF#64 false, .enqBulk 1#32, .enqBurst 1#32,
        .deqBulk 1#32, .deqBurst 0xFFFFFFFF#32],
      let s := waitingFor defaultParams i
      s.unitOk (unitOf i) = true ∧ operandErrorOf s i = false ∧ zeroCountOf i = false ∧ s.sched = .grant 0 :: [] ∧
        (s.ports[0]?).map (fun q => (q.phase, q.cmdch.map fun m => (decodeMessage s.cfg m).toOption)) =
          some (.idle, [some i])) := by decide

theorem witness_acceptance_busy :
    let s := { enqAt .mt .m1 [.ringop, .reserve] id with sched := [.grant 0] }
    s.sched = .grant 0 :: [] ∧ (s.ports[0]?).map Port.phase = some (.busy .m1 [.ringop, .reserve]) ∧
      (nextOf (step s)).isSome = true := by decide

theorem witness_resetValues :
    ({ State.reset with sched := [.reset defaultParams] } : State).sched = .reset defaultParams :: [] := rfl

/-- `M1`; `M2` with nothing free and with exactly the count free; `M3` at the last position before the wrap, won and
lost. -/
theorem witness_reserveMt :
    ringopAt (.enqBulk 1#32) .fifo .prod .mt (enqAt .mt .m1 [.ringop, .reserve] id) .m1 [.ringop, .reserve] ∧
    (let s := enqAt .mt .m2 [.ringop, .reserve] fun l => { l with oh := 4#32 };
      ringopAt (.enqBulk 1#32) .fifo .prod .mt s .m2 [.ringop, .reserve] ∧ kOf s .fifo .prod = 0#32) ∧
    (let s := enqAt .mt .m2 [.ringop, .reserve] fun l => { l with oh := 3#32 };
      ringopAt (.enqBulk 1#32) .fifo .prod .mt s .m2 [.ringop, .reserve] ∧ kOf s .fifo .prod = 1#32) ∧
    (let s := (enqAt .mt .m3 [.ringop, .reserve] fun l => { l with oh := 0xFFFFFFFF#32 }).setA .fifo .prod 0xFFFFFFFF#64;
      ringopAt (.enqBulk 1#32) .fifo .prod .mt s .m3 [.ringop, .reserve] ∧ s.lat.k ≠ 0#32 ∧
        s.headw .fifo .prod = s.lat.oh) ∧
    (let s := enqAt .mt .m3 [.ringop, .reserve] fun l => { l with oh := 1#32 };
      ringopAt (.enqBulk 1#32) .fifo .prod .mt s .m3 [.ringop, .reserve] ∧ s.lat.k ≠ 0#32 ∧
        s.headw .fifo .prod ≠ s.lat.oh) := by decide

/-- `S1` of a free and of an owned side; `S2` with nothing and with one element there; `S3`. -/
theorem witness_reserveSt :
    (let s := deqAt .st .s1 [.ringop, .reserve] id;
      ringopAt (.deqBurst 1#32) .fifo .cons .st s .s1 [.ringop, .reserve] ∧ (s.side .fifo .cons).sown.valid = false) ∧
    (let s := (deqAt .st .s1 [.ringop, .reserve] id).setSown .fifo .cons ⟨true, 0⟩;
      ringopAt (.deqBurst 1#32) .fifo .cons .st s .s1 [.ringop, .reserve] ∧ (s.side .fifo .cons).sown.valid = true) ∧
    (let s := deqAt .st .s2 [.ringop, .reserve] id;
      ringopAt (.deqBurst 1#32) .fifo .cons .st s .s2 [.ringop, .reserve] ∧ kOf s .fifo .cons = 0#32) ∧
    (let s := (deqAt .st .s2 [.ringop, .reserve] id).setB .fifo .prod 1#64;
      ringopAt (.deqBurst 1#32) .fifo .cons .st s .s2 [.ringop, .reserve] ∧ kOf s .fifo .cons = 1#32) ∧
    (let s := deqAt .st .s3 [.ringop, .reserve] id;
      ringopAt (.deqBurst 1#32) .fifo .cons .st s .s3 [.ringop, .reserve] ∧ s.lat.k ≠ 0#32) := by decide

/-- `H1` of an open and of a closed word; `H2` with nothing and with one element there; `H3` won and lost. -/
theorem witness_reserveHts :
    (let s := (deqAt .hts .h1 [.ringop, .reserve] id).setA .fifo .cons 1#64;
      ringopAt (.deqBurst 1#32) .fifo .cons .hts s .h1 [.ringop, .reserve] ∧
        loOf (s.side .fifo .cons).a ≠ hiOf (s.side .fifo .cons).a) ∧
    (let s := deqAt .hts .h1 [.ringop, .reserve] id;
      ringopAt (.deqBurst 1#32) .fifo .cons .hts s .h1 [.ringop, .reserve] ∧
        loOf (s.side .fifo .cons).a = hiOf (s.side .fifo .cons).a) ∧
    (let s := deqAt .hts .h2 [.ringop, .reserve] id;
      ringopAt (.deqBurst 1#32) .fifo .cons .hts s .h2 [.ringop, .reserve] ∧ kOf s .fifo .cons = 0#32) ∧
    (let s := (deqAt .hts .h2 [.ringop, .reserve] id).setA .fifo .prod 0x0000000100000001#64;
      ringopAt (.deqBurst 1#32) .fifo .cons .hts s .h2 [.ringop, .reserve] ∧ kOf s .fifo .cons = 1#32) ∧
    (let s := deqAt .hts .h3 [.ringop, .reserve] id;
      ringopAt (.deqBurst 1#32) .fifo .cons .hts s .h3 [.ringop, .reserve] ∧ s.lat.k ≠ 0#32 ∧
        (s.side .fifo .cons).a = pack s.lat.oh s.lat.oh) ∧
    (let s := (deqAt .hts .h3 [.ringop, .reserve] id).setA .fifo .cons 1#64;
      ringopAt (.deqBurst 1#32) .fifo .cons .hts s .h3 [.ringop, .reserve] ∧ s.lat.k ≠ 0#32 ∧
        (s.side .fifo .cons).a ≠ pack s.lat.oh s.lat.oh) := by decide

/-- `DQ_ENQ` on ring 1: `T1`; `T2` one above `HTD_MAX` and at it; `T3` with nothing and one slot free; `T4` at the last
counter value, won and lost. -/
theorem witness_reserveRts :
    let at_ := fun l f => busyAt (cfgOf .mt .mt .rts) .dqEnq l [.ringop, .reserve]
      fun x => { x with n := 1#32, k := 1#32, oh := f, oc := 0xFFFFFFFF#32 }
    ringopAt .dqEnq .defer .prod .rts (at_ .t1 0#32) .t1 [.ringop, .reserve] ∧
    (ringopAt .dqEnq .defer .prod .rts (at_ .t2 1#32) .t2 [.ringop, .reserve] ∧
      htdMax (at_ .t2 1#32).cfg .defer < (at_ .t2 1#32).lat.oh - (at_ .t2 1#32).tailview .defer .prod) ∧
    (ringopAt .dqEnq .defer .prod .rts (at_ .t2 0#32) .t2 [.ringop, .reserve] ∧
      (at_ .t2 0#32).lat.oh - (at_ .t2 0#32).tailview .defer .prod = htdMax (at_ .t2 0#32).cfg .defer) ∧
    (ringopAt .dqEnq .defer .prod .rts (at_ .t3 4#32) .t3 [.ringop, .reserve] ∧ kOf (at_ .t3 4#32) .defer .prod = 0#32) ∧
    (ringopAt .dqEnq .defer .prod .rts (at_ .t3 3#32) .t3 [.ringop, .reserve] ∧ kOf (at_ .t3 3#32) .defer .prod = 1#32) ∧
    (let s := (at_ .t4 0#32).setA .defer .prod 0xFFFFFFFF00000000#64;
      ringopAt .dqEnq .defer .prod .rts s .t4 [.ringop, .reserve] ∧ s.lat.k ≠ 0#32 ∧
        (s.side .defer .prod).a = pack s.lat.oh s.lat.oc) ∧
    (ringopAt .dqEnq .defer .prod .rts (at_ .t4 0#32) .t4 [.ringop, .reserve] ∧ (at_ .t4 0#32).lat.k ≠ 0#32 ∧
      ((at_ .t4 0#32).side .defer .prod).a ≠ pack (at_ .t4 0#32).lat.oh (at_ .t4 0#32).lat.oc) := by decide

/-- An enqueue that fills the whole ring and a dequeue that empties it, both across the end of the storage. -/
def copyWrap (i : Instr) : State :=
  { busyAt (cfgOf .mt .mt .rts) i .cp [.ringop, .copy] (fun l => { l with oh := 3#32, k := 4#32 }) with
    fifo := { Ring.reset with mem := (List.range 16).map fun a => (a, BitVec.ofNat 8 (a / 4)) } }

set_option maxRecDepth 20000 in
theorem witness_copyMovesElements :
    (let s := copyWrap (.enqBulk 4#32);
      ringopUse (.enqBulk 4#32) = some (.fifo, .prod) ∧ s.atLine .cp [.ringop, .copy] ∧ ispow2 (cap s.cfg .fifo) = true ∧
        s.lat.k ≠ 0#32 ∧ s.lat.k ≤ cap s.cfg .fifo ∧ s.fifo.mem.wf = true) ∧
    (let s := copyWrap (.deqBulk 4#32);
      let es : List Element := [[3#8, 3#8, 3#8, 3#8], [0#8, 0#8, 0#8, 0#8], [1#8, 1#8, 1#8, 1#8], [2#8, 2#8, 2#8, 2#8]]
      ringopUse (.deqBulk 4#32) = some (.fifo, .cons) ∧ s.atLine .cp [.ringop, .copy] ∧ ispow2 (cap s.cfg .fifo) = true ∧
        s.lat.k ≠ 0#32 ∧ s.lat.k ≤ cap s.cfg .fifo ∧ es.length = s.lat.k.toNat ∧
        ∀ j, j < s.lat.k.toNat →
          s.fifo.mem.readBytes (addrOf s.cfg .fifo (s.lat.oh + BitVec.ofNat 32 j)) (esize s.cfg .fifo) = es[j]?) := by
  decide

set_option maxRecDepth 20000 in
theorem witness_copyStopsOnEmptySlot :
    (let s := deqAt .mt .cp [.ringop, .copy] id;
      ringRequest (.deqBurst 1#32) = some (.cons, 1#32, .upTo) ∧ s.atLine .cp [.ringop, .copy] ∧
        cap s.cfg .fifo ≠ 0#32 ∧ 0 < s.lat.k.toNat ∧
        s.fifo.mem.readBytes (addrOf s.cfg .fifo (s.lat.oh + BitVec.ofNat 32 0)) (esize s.cfg .fifo) = none) ∧
    (let s := busyAt (cfgOf .mt .mt .rts) .dqDelete .x1 [.reclaimseq] id;
      reclaims .dqDelete = true ∧ s.atLine .x1 [.reclaimseq] ∧ cap s.cfg .defer ≠ 0#32 ∧
        s.defer.mem.readBytes (addrOf s.cfg .defer s.lat.oh) (esize s.cfg .defer) = none) := by decide

set_option maxRecDepth 20000 in
/-- Both forms of the copy: at its longest without wrapping, and wrapping; for both sides. -/
theorem witness_copyInTwoMoves :
    ∀ i ∈ [Instr.enqBulk 4#32, .deqBulk 4#32], ∀ oh ∈ [0, 3],
      let s := (copyWrap i).updLat fun l => { l with oh := BitVec.ofNat 32 oh }
      (ringopUse i).isSome = true ∧ s.atLine .cp [.ringop, .copy] ∧ ispow2 (cap s.cfg .fifo) = true ∧
        s.lat.k ≤ cap s.cfg .fifo ∧ (nextOf (exec i s)).isSome = true := by decide

/-- `M4` waiting and at its turn; `M5`. -/
theorem witness_publishMt :
    (let s := enqAt .mt .m4 [.ringop, .publish] fun l => { l with oh := 1#32 };
      ringopAt (.enqBulk 1#32) .fifo .prod .mt s .m4 [.ringop, .publish] ∧ s.tailview .fifo .prod ≠ s.lat.oh) ∧
    (let s := enqAt .mt .m4 [.ringop, .publish] id;
      ringopAt (.enqBulk 1#32) .fifo .prod .mt s .m4 [.ringop, .publish] ∧ s.tailview .fifo .prod = s.lat.oh) ∧
    ringopAt (.deqBurst 1#32) .fifo .cons .mt (deqAt .mt .m5 [.ringop, .publish] id) .m5 [.ringop, .publish] := by decide

theorem witness_publishStHts :
    ringopAt (.enqBulk 1#32) .fifo .prod .st (enqAt .st .s4 [.ringop, .publish] id) .s4 [.ringop, .publish] ∧
    ringopAt (.deqBurst 1#32) .fifo .cons .hts (deqAt .hts .h4 [.ringop, .publish] id) .h4 [.ringop, .publish] := by decide

set_option maxRecDepth 20000 in
/-- `T5`, `T6`; `T7` won as the last one out (at the wrap of the counter), won as not the last, and lost. -/
theorem witness_publishRts :
    ringopAt (.enqBulk 1#32) .fifo .prod .rts (enqAt .rts .t5 [.ringop, .publish] id) .t5 [.ringop, .publish] ∧
    ringopAt (.enqBulk 1#32) .fifo .prod .rts (enqAt .rts .t6 [.ringop, .publish] id) .t6 [.ringop, .publish] ∧
    (let s := (enqAt .rts .t7 [.ringop, .publish] fun l => { l with otw := 0xFFFFFFFF00000000#64, hw := 1#64 }).setB .fifo
        .prod 0xFFFFFFFF00000000#64;
      ringopAt (.enqBulk 1#32) .fifo .prod .rts s .t7 [.ringop, .publish] ∧ (s.side .fifo .prod).b = s.lat.otw ∧
        hiOf s.lat.otw + 1#32 = hiOf s.lat.hw) ∧
    (let s := enqAt .rts .t7 [.ringop, .publish] fun l => { l with hw := 0x0000000200000002#64 };
      ringopAt (.enqBulk 1#32) .fifo .prod .rts s .t7 [.ringop, .publish] ∧ (s.side .fifo .prod).b = s.lat.otw ∧
        hiOf s.lat.otw + 1#32 ≠ hiOf s.lat.hw) ∧
    (let s := (enqAt .rts .t7 [.ringop, .publish] id).setB .fifo .prod 1#64;
      ringopAt (.enqBulk 1#32) .fifo .prod .rts s .t7 [.ringop, .publish] ∧ (s.side .fifo .prod).b ≠ s.lat.otw) := by decide

/-- A waiting command on an idle port, its own side of ring 0 idle at the last position before the wrap, the opposing tail
at `opp`. -/
def aloneState (d : Sync) (sd : Side) (opp : U32) (i : Instr) : State :=
  let s := (waitingFor (cfgOf d d .rts) i).setSide .fifo sd (idleSide d 0xFFFFFFFF#32 0xFFFFFFFF#32)
  { s.setSide .fifo sd.opp (idleSide d opp 0#32) with
    fifo := { ((s.setSide .fifo sd.opp (idleSide d opp 0#32)).fifo) with
      mem := (List.range 16).map fun a => (a, BitVec.ofNat 8 (a / 4)) } }

set_option maxRecDepth 20000 in
/-- Under every discipline: one slot short for `ENQ_BULK` (`K = 0`), the ring full (`K = 0`), one slot short for `ENQ_BURST`
(`K = n - 1`), and the whole ring free (`K = n = C`). -/
theorem witness_enqueueAlone :
    ∀ d ∈ [Sync.st, .mt, .hts, .rts],
      ∀ x ∈ [(2 ^ 32 - 2, Instr.enqBulk 4#32, 0), (2 ^ 32 - 5, .enqBurst 4#32, 0), (2 ^ 32 - 2, .enqBurst 4#32, 3),
          (2 ^ 32 - 1, .enqBulk 4#32, 4), (2 ^ 32 - 1, .enqBurst 4#32, 4)],
        let s := aloneState d .prod (BitVec.ofNat 32 x.1) x.2.1
        let tail := if s.cfg.csync0 = .hts then hiOf s.fifo.cons.a else loOf s.fifo.cons.b
        let av := (s.cfg.c0 + tail - 0xFFFFFFFF#32).toNat
        ((x.2.1 = .enqBulk 4#32 ∧ x.2.2 = if 4 ≤ av then 4 else 0) ∨ (x.2.1 = .enqBurst 4#32 ∧ x.2.2 = min 4 av)) ∧
        (s.ports[0]?).map (fun q => (q.phase, q.cmdch.map fun m => (decodeMessage s.cfg m).toOption)) =
          some (.idle, [some x.2.1]) ∧
        s.r0Ok = true ∧ ispow2 s.cfg.c0 = true ∧ s.fifo.mem.wf = true ∧ s.cfg.psync0 = d ∧
        s.fifo.prod = idleSide d 0xFFFFFFFF#32 0xFFFFFFFF#32 ∧ BitVec.ofNat 32 x.2.2 ≤ s.cfg.c0 := by decide

set_option maxRecDepth 20000 in
/-- Under every discipline: one element short for `DEQ_BULK` (`K = 0`), the ring empty (`K = 0`), and the whole ring filled
(`K = n = C`, across the wrap) for either form. -/
theorem witness_dequeueAlone :
    ∀ d ∈ [Sync.st, .mt, .hts, .rts],
      ∀ x ∈ [(2#32, Instr.deqBulk 4#32, ([] : List Element)), (0xFFFFFFFF#32, .deqBurst 4#32, []),
          (0#32, .deqBurst 4#32, [[3#8, 3#8, 3#8, 3#8]]),
          (3#32, .deqBulk 4#32, [[3#8, 3#8, 3#8, 3#8], [0#8, 0#8, 0#8, 0#8], [1#8, 1#8, 1#8, 1#8], [2#8, 2#8, 2#8, 2#8]])],
        let s := aloneState d .cons x.1 x.2.1
        let tail := if s.cfg.psync0 = .hts then hiOf s.fifo.prod.a else loOf s.fifo.prod.b
        let av := (tail - 0xFFFFFFFF#32).toNat
        let k := x.2.2.length
        ((x.2.1 = .deqBulk 4#32 ∧ k = if 4 ≤ av then 4 else 0) ∨ (x.2.1 = .deqBurst 4#32 ∧ k = min 4 av)) ∧
        (s.ports[0]?).map (fun q => (q.phase, q.cmdch.map fun m => (decodeMessage s.cfg m).toOption)) =
          some (.idle, [some x.2.1]) ∧
        s.r0Ok = true ∧ ispow2 s.cfg.c0 = true ∧ s.cfg.csync0 = d ∧
        s.fifo.cons = idleSide d 0xFFFFFFFF#32 0xFFFFFFFF#32 ∧ BitVec.ofNat 32 k ≤ s.cfg.c0 ∧
        ∀ j, j < k →
          s.fifo.mem.readBytes ((0xFFFFFFFF#32 + BitVec.ofNat 32 j).toNat % s.cfg.c0.toNat * s.cfg.e0.toNat) s.cfg.e0.toNat =
            x.2.2[j]? := by
  decide

set_option maxRecDepth 20000 in
/-- Two ports, an enqueue of `C` elements waiting on the one and a dequeue of `C` on the other. -/
theorem witness_fifoOrder :
    ∀ dp ∈ [Sync.st, .mt, .hts, .rts], ∀ dc ∈ [Sync.st, .mt, .hts, .rts],
      let s := ((((State.resetWith { cfgOf dp dc .rts with nports := 2 }).updPortAt 0 fun q =>
          { q with cmdch := [⟨encode (.enqBulk 4#32), ⟨16, [1#8]⟩⟩] }).updPortAt 1 fun q =>
          { q with cmdch := [⟨encode (.deqBurst 4#32), ⟨0, []⟩⟩] }).setSide .fifo .prod (idleSide dp 0xFFFFFFFE#32 0#32)).setSide
          .fifo .cons (idleSide dc 0xFFFFFFFE#32 7#32)
      (s.ports[0]?).map (fun q => (q.phase, q.cmdch.map fun m => (decodeMessage s.cfg m).toOption)) =
        some (.idle, [some (.enqBulk 4#32)]) ∧
      (s.ports[1]?).map (fun q => (q.phase, q.cmdch.map fun m => (decodeMessage s.cfg m).toOption)) =
        some (.idle, [some (.deqBurst 4#32)]) ∧
      ringRequest (.enqBulk 4#32) = some (.prod, 4#32, .exact) ∧ ringRequest (.deqBurst 4#32) = some (.cons, 4#32, .upTo) ∧
      4#32 ≤ cap s.cfg .fifo ∧ s.r0Ok = true ∧ ringValid s.cfg = true ∧ s.fifo.mem.wf = true ∧
      s.side .fifo .prod = idleSide (syncOf s.cfg .fifo .prod) 0xFFFFFFFE#32 0#32 ∧
      s.side .fifo .cons = idleSide (syncOf s.cfg .fifo .cons) 0xFFFFFFFE#32 7#32 := by decide

theorem witness_countLines :
    ∀ i ∈ [Instr.ringCount, .ringFree],
      (i = .ringCount ∨ i = .ringFree) ∧
      (busyAt (cfgOf .mt .mt .rts) i .n1 [.countseq] id).atLine .n1 [.countseq] ∧
      (busyAt (cfgOf .mt .mt .rts) i .n2 [.countseq] id).atLine .n2 [.countseq] := by decide

/-- A thread at the greatest id, `MAX_THREADS - 1`: registered, locked, and neither. -/
theorem witness_threadLines :
    ∀ x ∈ [(Instr.thrReg 1#32, Label.g1), (.thrUnreg 1#32, .u1), (.quiescent 1#32, .q1), (.quiescent 1#32, .q2),
        (.rdLock 1#32, .l1), (.rdUnlock 1#32, .l2), (.sync 1#32, .y3)],
      let s := busyAt (cfgOf .mt .mt .rts) x.1 x.2 [] id
      (s.atLine x.2 [] ∧ s.hasThread 1 ∧ s.regd 1 = false ∧ s.lockOf 1 = 0#32) ∧
      ((s.setRegd 1).atLine x.2 [] ∧ (s.setRegd 1).hasThread 1 ∧ (s.setRegd 1).regd 1 = true) ∧
      ((s.setLock 1 0xFFFFFFFF#32).atLine x.2 [] ∧ (s.setLock 1 0xFFFFFFFF#32).hasThread 1 ∧
        ((s.setLock 1 0xFFFFFFFF#32).lockOf 1).toNat = 2 ^ 32 - 1) := by decide

theorem witness_startLine :
    ∀ tok ∈ [2 ^ 64 - 2, 2 ^ 64 - 1],
      ((busyAt (cfgOf .mt .mt .rts) .start .a1 [] id).setToken (BitVec.ofNat 64 tok)).atLine .a1 [] := by decide

theorem witness_tokenNeverWraps :
    ∀ x ∈ [(Instr.start, Label.a1), (.sync 1#32, .y1), (.dqEnq, .d1)],
      let s := (busyAt (cfgOf .mt .mt .rts) x.1 x.2 [] id).setToken 0xFFFFFFFFFFFFFFFF#64
      s.token.toNat = 2 ^ 64 - 1 ∧ s.atLine x.2 [] ∧
        ¬(1#32 < s.cfg.maxThreads ∧ s.regd 1 = true ∧ s.lockOf 1 ≠ 0#32) ∧ s.dqAlive = true := by decide

/-- `Y1` of a locked reader at the last token, of a reader and of a caller that is none one below it; `Y2`. -/
theorem witness_syncLines :
    let s := (busyAt (cfgOf .mt .mt .rts) (.sync 1#32) .y1 [] id).setToken 0xFFFFFFFFFFFFFFFE#64
    (s.atLine .y1 [] ∧ s.token.toNat < 2 ^ 64 - 1 ∧ s.regd 1 = false) ∧
    ((s.setRegd 1).atLine .y1 [] ∧ (s.setRegd 1).token.toNat < 2 ^ 64 - 1 ∧ (s.setRegd 1).regd 1 = true) ∧
    (let t := ((s.setRegd 1).setLock 1 1#32).setToken 0xFFFFFFFFFFFFFFFF#64;
      t.atLine .y1 [] ∧ 1#32 < t.cfg.maxThreads ∧ t.regd 1 = true ∧ t.lockOf 1 ≠ 0#32) ∧
    (busyAt (cfgOf .mt .mt .rts) (.sync 1#32) .y2 [] id).atLine .y2 [] := by decide

/-- A check sequence over two bitmap words. -/
def checkAt (i : Instr) (l : Label) (st : List Seq) (f : Latches → Latches) : State :=
  { busyAt { cfgOf .mt .mt .rts with maxThreads := 65#32 } i l st f with acked := 4#64 }

/-- `V3` for token 5 and thread 63, whose counter is `c`. -/
def lagAt (i : Instr) (st : List Seq) (c : Nat) (wait : Bool) : State :=
  { checkAt i .v3 st (fun l => { l with t := 5#64, wt := wait, bm := 0x8000000000000000#64 }) with
    cnt := List.replicate 65 (BitVec.ofNat 64 c) }

set_option maxRecDepth 20000 in
/-- In each command that checks: `V1` at the token that `ACKED_TOKEN` reaches and one above; `V2` with bits set, with
another word to come and at the last word, seen or not; `V3` with a counter one below the token, waiting or not, and at
it; `V4`. -/
theorem witness_checkLines :
    ∀ x ∈ [(Instr.check 5#64 true, [Seq.checkseq]), (.sync 0#32, [.checkseq]), (.dqEnq, [.reclaimseq, .checkseq]),
        (.dqReclaim 1#32, [.reclaimseq, .checkseq]), (.dqDelete, [.reclaimseq, .checkseq])],
      checkUse x.1 = some x.2 ∧
      (∀ t ∈ [4, 5], (checkAt x.1 .v1 x.2 fun l => { l with t := BitVec.ofNat 64 t }).atLine .v1 x.2) ∧
      (∀ w ∈ [0, 1], ∀ b ∈ [false, true],
        (checkAt x.1 .v2 x.2 fun l => { l with wi := BitVec.ofNat 32 w, seen := b }).atLine .v2 x.2) ∧
      (∀ c ∈ [4, 5], ∀ b ∈ [false, true],
        (lagAt x.1 x.2 c b).atLine .v3 x.2 ∧ (lagAt x.1 x.2 c b).lat.bm.getLsbD 63 = true ∧
          (lagAt x.1 x.2 c b).cntOf 63 = BitVec.ofNat 64 c ∧
          ∀ j', j' < 63 → (lagAt x.1 x.2 c b).lat.bm.getLsbD j' = false) ∧
      (checkAt x.1 .v4 x.2 id).atLine .v4 x.2 := by decide

set_option maxRecDepth 20000 in
/-- A token one below, at and one above the counter of the only registered thread, waiting where it is complete; the
acknowledged token is complete. -/
theorem witness_checkAloneDecides :
    ∀ x ∈ [(4, true), (5, true), (4, false), (5, false), (6, false)],
      let tok := BitVec.ofNat 64 x.1
      let s := { waitingFor (cfgOf .mt .mt .rts) (.check tok x.2) with
        bitmap := [2#64], numThreads := 1#32, cnt := [0#64, 5#64], token := 6#64, acked := 4#64 }
      s.Sound ∧ s.RegistryOk ∧ s.qOk = true ∧ (x.2 = true → tok ≤ s.acked ∨ s.Complete tok) ∧ s.Complete s.acked ∧
      (s.ports[0]?).map (fun q => (q.phase, q.cmdch.map fun m => (decodeMessage s.cfg m).toOption)) =
        some (.idle, [some (.check tok x.2)]) := by decide

/-- Ring 1 holds one published entry, of token 5, and thread 1 is at 4. -/
def oldestState (i : Instr) : State :=
  let s := { waitingFor (cfgOf .mt .mt .rts) i with
    bitmap := [2#64], numThreads := 1#32, cnt := [0#64, 4#64], token := 5#64, acked := 4#64 }
  { s with defer :=
      { prod := idleSide .rts 1#32 1#32, cons := idleSide .hts 0#32 0#32,
        mem := (List.range 12).map fun a => (a, if a = 0 then 5#8 else 0#8) } }

set_option maxRecDepth 20000 in
/-- A reclaim of one entry, of as many as there can be, and a delete, the oldest entry's token one above the counter of the
only registered thread. -/
theorem witness_checkAloneDecides_reclaim :
    ∀ i ∈ [Instr.dqReclaim 1#32, .dqReclaim 0xFFFFFFFF#32, .dqDelete],
      let s := oldestState i
      s.Sound ∧ s.RegistryOk ∧ s.Complete s.acked ∧ s.dqOk = true ∧ s.dqAlive = true ∧
      s.defer.cons = idleSide .hts 0#32 0#32 ∧ s.tailview .defer .prod ≠ 0#32 ∧
      s.defer.mem.readBytes (addrOf s.cfg .defer 0#32) (esize s.cfg .defer) =
        some (5#8 :: List.replicate 11 0#8) ∧
      ¬ s.Complete (entryToken (5#8 :: List.replicate 11 0#8)) ∧
      (s.ports[0]?).map (fun q => (q.phase, q.cmdch.map fun m => (decodeMessage s.cfg m).toOption)) =
        some (.idle, [some i]) := by decide

theorem witness_deadQueueAnswers :
    ∀ x ∈ [(Instr.dqEnq, Label.d1), (.dqReclaim 0#32, .r1), (.dqDelete, .z0)],
      let s := (busyAt (cfgOf .mt .mt .rts) x.1 x.2 [] id).killDq
      s.dqAlive = false ∧ s.atLine x.2 [] := by decide

set_option maxRecDepth 20000 in
/-- `D1` one below the last token; `N1`; `N2` with the count at `TRIGGER_LIMIT` and one above it. -/
theorem witness_dqEnqLines :
    let cfg := { cfgOf .mt .mt .rts with triggerLimit := 1#32 }
    (let s := (busyAt cfg .dqEnq .d1 [] id).setToken 0xFFFFFFFFFFFFFFFE#64;
      s.atLine .d1 [] ∧ s.dqAlive = true ∧ s.token.toNat < 2 ^ 64 - 1) ∧
    (busyAt cfg .dqEnq .n1 [.countseq] id).atLine .n1 [.countseq] ∧
    ∀ x ∈ [(1#64, 1), (2#64, 2)],
      let s := (busyAt cfg .dqEnq .n2 [.countseq] id).setB .defer .prod x.1
      s.atLine .n2 [.countseq] ∧ min (s.tailview .defer .prod - s.lat.ct).toNat s.cfg.dqSize.toNat = x.2 := by decide

set_option maxRecDepth 20000 in
theorem witness_reclaimBegins :
    (∀ n ∈ [0, 1, 2 ^ 32 - 1],
      let s := busyAt (cfgOf .mt .mt .rts) (.dqReclaim (BitVec.ofNat 32 n)) .r1 [] id
      s.dqAlive = true ∧ s.atLine .r1 []) ∧
    (let s := busyAt (cfgOf .mt .mt .rts) .dqDelete .z0 [] id;
      s.dqAlive = true ∧ s.atLine .z0 []) := by decide

set_option maxRecDepth 20000 in
/-- In each command that reclaims: `H1` open and closed, `H2` with no entry and with one, `H3` won and lost, `X1` with a
written entry. -/
theorem witness_reclaimTakesOldest :
    ∀ i ∈ [Instr.dqEnq, .dqReclaim 1#32, .dqDelete],
      let at_ := fun l st => busyAt (cfgOf .mt .mt .rts) i l st fun x => { x with n := 1#32, k := 1#32 }
      reclaims i = true ∧
      (∀ w ∈ [0, 1], ((at_ .h1 [.reclaimseq, .reserve]).setA .defer .cons (BitVec.ofNat 64 w)).atLine .h1
        [.reclaimseq, .reserve]) ∧
      (∀ x ∈ [0, 1],
        let s := (at_ .h2 [.reclaimseq, .reserve]).setB .defer .prod (BitVec.ofNat 64 x)
        s.atLine .h2 [.reclaimseq, .reserve] ∧
          clamp (s.tailview .defer .prod - s.lat.oh) s.lat.n s.lat.beh = BitVec.ofNat 32 x) ∧
      (∀ w ∈ [0, 1],
        let s := (at_ .h3 [.reclaimseq, .reserve]).setA .defer .cons (BitVec.ofNat 64 w)
        s.atLine .h3 [.reclaimseq, .reserve] ∧ s.lat.k ≠ 0#32) ∧
      (let s := { at_ .x1 [.reclaimseq] with
          defer := { Ring.reset with mem := (List.range 12).map fun a => (a, 9#8) } };
        s.atLine .x1 [.reclaimseq] ∧ cap s.cfg .defer ≠ 0#32 ∧
          s.defer.mem.readBytes (addrOf s.cfg .defer s.lat.oh) (esize s.cfg .defer) = some (List.replicate 12 9#8)) := by
  decide

set_option maxRecDepth 20000 in
theorem witness_reclaimFreesCancels :
    ∀ i ∈ [Instr.dqEnq, .dqReclaim 1#32, .dqDelete],
      reclaims i = true ∧
      (∀ f ∈ [0, 1],
        (busyAt (cfgOf .mt .mt .rts) i .x2 [.reclaimseq] fun l =>
          { l with lim := .num 1#32, freed := BitVec.ofNat 32 f }).atLine .x2 [.reclaimseq]) ∧
      (busyAt (cfgOf .mt .mt .rts) i .h5 [.reclaimseq, .cancel] id).atLine .h5 [.reclaimseq, .cancel] := by decide

theorem witness_deleteEnds : (busyAt (cfgOf .mt .mt .rts) .dqDelete .z1 [] id).atLine .z1 [] := by decide

set_option maxRecDepth 20000 in
theorem witness_csrReads :
    let s := busyAt (cfgOf .mt .mt .rts) (.csrRd 0x1002#32 1#64) .c1 [] id
    s.atLine .c1 [] ∧ s.csr 0x1002#32 1#64 = some 0#64 := by decide

/-! ### Witnesses of the statements about every command and every step -/

theorem witness_ownPortOnly :
    (let s := enqAt .mt .m1 [.ringop, .reserve] id;
      s.phase ≠ .idle ∧ (nextOf (exec (.enqBulk 1#32) s)).isSome = true) ∧
    (let s := waitingFor (cfgOf .mt .mt .rts) .start;
      s.phase = .idle ∧ (nextOf (exec .start s)).isSome = true) := by decide

/-- A step that changes `TOKEN` and one that changes `ACKED_TOKEN`. -/
theorem witness_tokenWriters :
    (let s := busyAt (cfgOf .mt .mt .rts) .start .a1 [] id;
      ∃ t, exec .start s = .next t ∧ decide (t.token ≠ s.token) = true) ∧
    (let s := checkAt (.check 5#64 false) .v4 [.checkseq] fun l => { l with minc := 5#64 };
      ∃ t, exec (.check 5#64 false) s = .next t ∧ decide (t.acked ≠ s.acked) = true) :=
  ⟨exists_next (by decide), exists_next (by decide)⟩

theorem witness_flagWriters :
    ∃ t, exec .dqDelete (busyAt (cfgOf .mt .mt .rts) .dqDelete .z1 [] id) = .next t ∧ decide (t.status = 7#64) = true :=
  exists_next (by decide)

/-- A step that changes the registry, one that changes a counter and one that changes a lock count. -/
theorem witness_threadWriters :
    (let s := busyAt (cfgOf .mt .mt .rts) (.thrReg 1#32) .g1 [] id;
      ∃ t, exec (.thrReg 1#32) s = .next t ∧ decide (t.bitmap ≠ s.bitmap) = true) ∧
    (let s := busyAt (cfgOf .mt .mt .rts) (.sync 1#32) .y3 [] fun l => { l with qt := 3#64 };
      ∃ t, exec (.sync 1#32) s = .next t ∧ decide (t.cnt ≠ s.cnt) = true) ∧
    (let s := busyAt (cfgOf .mt .mt .rts) (.rdLock 1#32) .l1 [] id;
      ∃ t, exec (.rdLock 1#32) s = .next t ∧ decide (t.lockcnt ≠ s.lockcnt) = true) :=
  ⟨exists_next (by decide), exists_next (by decide), exists_next (by decide)⟩

/-- A step that changes storage, one that changes a side and one that emits a FREE message. -/
theorem witness_ringWriters :
    (let s := enqAt .mt .cp [.ringop, .copy] id;
      ∃ t, exec (.enqBulk 1#32) s = .next t ∧ decide (t.fifo.mem ≠ s.fifo.mem) = true) ∧
    (let s := enqAt .mt .m5 [.ringop, .publish] id;
      ∃ t, exec (.enqBulk 1#32) s = .next t ∧ decide (t.side .fifo .prod ≠ s.side .fifo .prod) = true) ∧
    (let s := busyAt (cfgOf .mt .mt .rts) .dqDelete .x2 [.reclaimseq] id;
      ∃ t, exec .dqDelete s = .next t ∧ decide (t.freech ≠ s.freech) = true) :=
  ⟨exists_next (by decide), exists_next (by decide), exists_next (by decide)⟩

/-- `E_FAULT` of `S1`, `E_PENDING` of `H5`, `E_NODQ` of `D1`. -/
theorem witness_errorsArePrecise :
    (∃ t, exec (.enqBulk 1#32) ((enqAt .st .s1 [.ringop, .reserve] id).setSown .fifo .prod ⟨true, 0⟩) = .next t ∧
      decide (t.port.rspch = [] ++ [{ word := responseWord .eFault 0#32 0#64, payload := [] }]) = true) ∧
    (∃ t, exec .dqDelete (busyAt (cfgOf .mt .mt .rts) .dqDelete .h5 [.reclaimseq, .cancel] id) = .next t ∧
      decide (t.port.rspch = [] ++ [{ word := responseWord .ePending 0#32 0#64, payload := [] }]) = true) ∧
    (∃ t, exec .dqEnq (busyAt (cfgOf .mt .mt .rts) .dqEnq .d1 [] id).killDq = .next t ∧
      decide (t.port.rspch = [] ++ [{ word := responseWord .eNodq 0#32 0#64, payload := [] }]) = true) :=
  ⟨exists_next (by decide), exists_next (by decide), exists_next (by decide)⟩

/-- The one port of the open states: `ENQ_BULK 1` at its copy, position 0 reserved. -/
def openPort : Port :=
  { Port.reset with
    phase := .busy .cp [.ringop, .copy],
    lat := { Latches.reset with cmd := encode (.enqBulk 1#32), n := 1#32, k := 1#32 } }

/-- That port has a reservation open on the producer side of ring 0, whose words are `w`; it is granted next. -/
def openState (d : Sync) (w : SideRegs) : State :=
  { (State.resetWith (cfgOf d .st .rts)).setSide .fifo .prod w with ports := [openPort], sched := [.grant 0] }

def openRts : State := openState .rts { a := pack 1#32 1#32, b := 0#64, sown := Owner.free }
def openHts : State := openState .hts { a := pack 1#32 0#32, b := 0#64, sown := Owner.free }
def openSt : State := openState .st { a := 1#64, b := 0#64, sown := ⟨true, 0⟩ }

theorem one_port {q0 q : Port} {p : Nat} (h : [q0][p]? = some q) : p = 0 ∧ q = q0 := by
  match p, h with
  | 0, h => exact ⟨rfl, (Option.some.inj h).symm⟩
  | _ + 1, h => cases h

theorem witness_sound :
    (openRts.Sound ∧ (nextOf (step openRts)).isSome = true) ∧ (openHts.Sound ∧ (nextOf (step openHts)).isSome = true) ∧
      (openSt.Sound ∧ (nextOf (step openSt)).isSome = true) := by decide

/-- A registered thread at the present token, and a port about to report it. -/
def reportState : State :=
  { busyAt (cfgOf .mt .mt .rts) (.quiescent 1#32) .q2 [] (fun l => { l with qt := 6#64 }) with
    bitmap := [2#64], numThreads := 1#32, cnt := [0#64, 5#64], token := 6#64, acked := 5#64, sched := [.grant 0] }

theorem witness_tokensOrderedKept : reportState.TokensOrdered ∧ (nextOf (step reportState)).isSome = true := by
  refine ⟨⟨by decide, fun v hv => ?_, by decide⟩, by decide⟩
  rcases List.mem_pair.mp hv with rfl | rfl <;> decide

set_option maxRecDepth 20000 in
theorem witness_registryKept :
    reportState.Sound ∧ reportState.RegistryOk ∧ (nextOf (step reportState)).isSome = true := by decide

theorem witness_reservedZeroKept :
    openSt.Sound ∧ openSt.ReservedZero ∧ (nextOf (step openSt)).isSome = true := by decide

theorem witness_htsExclusiveKept :
    openHts.Sound ∧ syncOf openHts.cfg .fifo .prod = .hts ∧ openHts.HtsExclusive .fifo .prod ∧
      (∀ cfg, (nextEvent openHts).1 ≠ some (.reset cfg)) ∧ step openHts = .next (afterStep openHts) := by
  refine ⟨by decide, by decide, ⟨fun p q hq _ => ?_, fun _ => ⟨openPort, by decide, by decide⟩⟩,
    fun cfg h => (by cases h), afterStep_eq (by decide)⟩
  obtain ⟨rfl, rfl⟩ := one_port hq
  exact ⟨by decide, by decide, by decide, fun p' q' h' _ => (one_port h').1⟩

theorem witness_stOwnedKept :
    openSt.Sound ∧ syncOf openSt.cfg .fifo .prod = .st ∧ openSt.StOwned .fifo .prod ∧
      (∀ cfg, (nextEvent openSt).1 ≠ some (.reset cfg)) ∧ step openSt = .next (afterStep openSt) := by
  refine ⟨by decide, by decide, ⟨fun p q hq _ => ?_, fun _ => ⟨openPort, by decide, by decide⟩⟩,
    fun cfg h => (by cases h), afterStep_eq (by decide)⟩
  obtain ⟨rfl, rfl⟩ := one_port hq
  exact ⟨by decide, fun h => by cases h⟩

/-- The single-agent side of that state, its consumer side, is owned by no port. -/
theorem openRts_stOwned : ∀ r sd, syncOf openRts.cfg r sd = .st → openRts.StOwned r sd := by
  intro r sd h
  cases r <;> cases sd <;> try exact absurd h (by decide)
  refine ⟨fun p q hq hi => ?_, fun hv => absurd hv (by decide)⟩
  obtain ⟨rfl, rfl⟩ := one_port hq
  exact absurd hi (by decide)

theorem openRts_ringOk : ∀ r, openRts.RingOk r := by
  intro r
  refine ⟨by cases r <;> decide, fun sd => ⟨fun p q hq hh => ?_, ?_, fun p q hq => ⟨fun hr => ?_, fun hh => ?_⟩⟩⟩
  · obtain ⟨rfl, rfl⟩ := one_port hq
    cases r <;> cases sd <;> first
      | exact absurd hh (by decide)
      | exact ⟨by decide, by decide, fun p' q' h' _ hne => absurd (one_port h').1 hne⟩
  · cases r <;> cases sd
    · exact (by decide : openRts.headcnt .fifo .prod - openRts.tailcnt .fifo .prod =
        BitVec.ofNat 32 (openRts.ports.countP fun q => q.holds .fifo .prod))
    · exact fun _ => (by decide : openRts.headw .fifo .cons = openRts.tailview .fifo .cons)
    · exact (by decide : openRts.headcnt .defer .prod - openRts.tailcnt .defer .prod =
        BitVec.ofNat 32 (openRts.ports.countP fun q => q.holds .defer .prod))
    · exact fun _ => (by decide : openRts.headw .defer .cons = openRts.tailview .defer .cons)
  · obtain ⟨rfl, rfl⟩ := one_port hq
    cases r <;> cases sd <;> exact absurd hr (by decide)
  · obtain ⟨rfl, rfl⟩ := one_port hq
    cases r <;> cases sd <;> first
      | exact absurd hh (by decide)
      | exact ⟨by decide, fun h => absurd h (by decide)⟩

theorem openRts_filled : ∀ r, openRts.Filled r := by
  intro r x hx
  cases r
  · have h1 : (openRts.headw .fifo .prod - openRts.tailview .fifo .cons).toNat = 1 := by decide
    have h2 : x - openRts.tailview .fifo .cons = x := by
      rw [show openRts.tailview .fifo .cons = 0#32 by decide]
      simp
    rw [h1, h2] at hx
    refine .inr ⟨openPort, by decide, by decide, rfl, ?_⟩
    have h3 : (x - openPort.lat.oh).toNat = x.toNat := by
      rw [show openPort.lat.oh = 0#32 by decide]
      simp
    rw [h3]
    exact hx
  · have h1 : (openRts.headw .defer .prod - openRts.tailview .defer .cons).toNat = 0 := by decide
    rw [h1] at hx
    exact absurd hx (by omega)

/-- The copy leaves the words of every side, so no word comes back to an expected value. -/
theorem openRts_noReuse : NoReuse openRts (afterStep openRts) := by
  have h : ∀ r sd, (afterStep openRts).side r sd = openRts.side r sd := by
    intro r sd
    cases r <;> cases sd <;> decide
  intro p q r sd _ _
  rw [h]
  exact ⟨fun _ h => h, fun _ h => h⟩

theorem witness_ringOrderKept :
    openRts.Sound ∧ (∀ sd, syncOf openRts.cfg .fifo sd = .st → openRts.StOwned .fifo sd) ∧ openRts.RingOk .fifo ∧
      openRts.Filled .fifo ∧ step openRts = .next (afterStep openRts) ∧ NoReuse openRts (afterStep openRts) :=
  ⟨by decide, openRts_stOwned .fifo, openRts_ringOk .fifo, openRts_filled .fifo, afterStep_eq (by decide),
    openRts_noReuse⟩

theorem witness_orderedRingsNeverStop : openRts.Sound ∧ ∀ r, openRts.RingOk r ∧ openRts.Filled r :=
  ⟨by decide, fun r => ⟨openRts_ringOk r, openRts_filled r⟩⟩

set_option maxRecDepth 20000 in
/-- The greatest complete token, and a step that reports a later one. -/
theorem witness_completeStays :
    reportState.Sound ∧ 5#64 ≤ reportState.token ∧ reportState.Complete 5#64 ∧
      (∀ cfg, (nextEvent reportState).1 ≠ some (.reset cfg)) ∧ step reportState = .next (afterStep reportState) ∧
      CountersKept reportState (afterStep reportState) := by
  refine ⟨by decide, by decide, by decide, fun cfg h => (by cases h), afterStep_eq (by decide), fun i h _ => ?_⟩
  have h1 : (afterStep reportState).cnt = [0#64, 6#64] := by decide
  have h2 : reportState.cnt = [0#64, 5#64] := rfl
  unfold State.cntOf
  rw [h1, h2]
  match i with
  | 0 => decide
  | 1 => decide
  | i + 2 => simp

theorem witness_completeStays_none : ∀ i, State.reset.regd i = false := by
  intro i
  have : State.reset.bitmap = [0#64] := by decide
  unfold State.regd
  rw [this]
  match h : i / 64 with
  | 0 => simp
  | j + 1 => simp

/-- A waiting check of the last issued token, at `V1`. -/
def scanState (l : Label) (f : Latches → Latches) : State :=
  { busyAt (cfgOf .mt .mt .rts) (.check 6#64 true) l [.checkseq] (fun x => f { x with t := 6#64, wt := true }) with
    bitmap := [3#64], numThreads := 2#32, cnt := [6#64, 5#64], token := 6#64, acked := 5#64, sched := [.grant 0] }

theorem witness_scanIsSound_begins :
    let s := scanState .v1 id
    s.Sound ∧ 0 < nwords s.cfg ∧ checkUse (.check 6#64 true) = some [.checkseq] ∧ s.atLine .v1 [.checkseq] ∧
      s.acked < s.lat.t ∧ s.lat.t ≤ s.token ∧ (nextOf (exec (.check 6#64 true) s)).isSome = true := by decide

/-- At `V3` of thread 1, past thread 0. -/
theorem witness_scanIsSound_goes_on :
    let s := scanState .v3 fun l => { l with bm := 2#64, seen := true, minc := 6#64 }
    s.Sound ∧ (∃ q, s.ports[0]? = some q ∧ s.Scanning q) ∧ (∀ cfg, (nextEvent s).1 ≠ some (.reset cfg)) ∧
      step s = .next (afterStep s) ∧ CountersKept s (afterStep s) := by
  refine ⟨by decide, ⟨_, rfl, ⟨.v3, [.checkseq], rfl, .inr (.inl ⟨rfl, by decide, by decide⟩)⟩, by decide, by decide⟩,
    fun cfg h => (by cases h), afterStep_eq (by decide), fun i _ _ => ?_⟩
  have h : (afterStep (scanState .v3 fun l => { l with bm := 2#64, seen := true, minc := 6#64 })).cnt =
      (scanState .v3 fun l => { l with bm := 2#64, seen := true, minc := 6#64 }).cnt := by decide
  unfold State.cntOf
  rw [h]
  exact BitVec.le_refl _

/-- `V1` at the acknowledged token, which is complete; no check has passed a thread. -/
theorem witness_scanIsSound_fast :
    let s := scanState .v1 fun l => { l with t := 5#64 }
    s.AckedSound ∧ checkUse (.check 6#64 true) = some [.checkseq] ∧ s.atLine .v1 [.checkseq] ∧ s.lat.t ≤ s.acked := by
  refine ⟨⟨by decide, fun q hq i _ _ hp => ?_⟩, by decide, by decide, by decide⟩
  obtain ⟨p, hq⟩ := List.getElem?_of_mem hq
  obtain ⟨rfl, rfl⟩ := one_port hq
  cases hp

/-- At `V3` of thread 1, past thread 0, whose counter is the least so far. -/
theorem witness_scanIsSound_acked :
    let s := scanState .v3 fun l => { l with bm := 2#64, seen := true, minc := 6#64 }
    s.Sound ∧ s.TokensOrdered ∧ s.AckedSound ∧ step s = .next (afterStep s) ∧ NoLateJoin s (afterStep s) := by
  refine ⟨by decide, ⟨by decide, fun v hv => ?_, by decide⟩, ⟨by decide, by decide⟩, afterStep_eq (by decide),
    fun q hq hs => ?_⟩
  · rcases List.mem_pair.mp hv with rfl | rfl <;> decide
  · obtain ⟨p, hq⟩ := List.getElem?_of_mem hq
    obtain ⟨rfl, rfl⟩ := one_port hq
    cases hs

/-- `Q2` brings the counter of thread 1 from 5 to exactly the token 6. -/
theorem witness_scanIsSound_reports :
    ∃ t, exec (.quiescent 1#32) reportState = .next t ∧
      (reportState.regd 1 && decide (reportState.cntOf 1 < 6#64) && decide (6#64 ≤ t.cntOf 1)) = true :=
  exists_next (by decide)

end Sys2Proof.Tests
end

section
/-! PROOFS. The scope of the block (spec/00_scope.md): what one step does around `exec` (rules R92, R262), the reset
values (spec/10_state.md rule R41) and the CSR map (spec/10_state.md rule R40). -/

namespace Sys2Proof.Machine

/-! ### The arbiter and the host (rules R67, R92, R262) -/

/-- A grant to a port that exists is that port's step. -/
theorem stepEvent_grant {s : State} {p : Nat} {q : Port} (h : s.ports[p]? = some q) :
    stepEvent (some (.grant p)) s = grantTo p q s := by
  simp only [stepEvent, h]

/-- A grant to an idle port with no waiting command: the port is not ready. -/
theorem grantTo_not_ready {p : Nat} {q : Port} {s : State} (h : q.phase = .idle) (hc : q.cmdch = []) :
    grantTo p q s = .next s := by
  simp only [grantTo, h, hc]

/-- The step at a state that lists no event: that of the free event, if there is one (log entry 2). -/
theorem step_unsched {s : State} (h : s.sched = []) :
    step s = stepEvent (Config.freeEvent s.tick) { s with tick := s.tick + 1 } := by
  simp only [step, nextEvent, h]

/-- A free event does what the same event does when it is listed. -/
theorem step_free {s : State} {e : Event} (h : s.sched = []) (he : Config.freeEvent s.tick = some e) :
    step s = step { s with sched := [e], tick := s.tick + 1 } := by
  rw [step_unsched h, he, step_sched (e := e) (es := []) rfl, ← h]

/-- The command a busy port executes is the one its latched word decodes to. -/
theorem Port.command_eq {q : Port} {i : Instr} (h : decodeWord q.lat.cmd = .ok i) : q.command = some i := by
  simp only [Port.command, h]

/-- Settles O6: each event is stepped by its own rule, once it is taken off the list. -/
theorem stepRunsCommand : Obligations.StepRunsCommand := by
  intro s es p q
  refine ⟨fun hs hq => ?_, fun m hs => ?_, fun hs => ?_, fun hs => ?_,
    fun hs => ⟨fun e he => step_free hs he, fun he => ?_⟩⟩
  · have hstep : step s = grantTo p q { s with sched := es } := (step_sched hs).trans (stepEvent_grant hq)
    exact ⟨fun m rest i hidle hm hi => hstep.trans (grantTo_idle hidle hm hi),
      fun l st i hbusy hi => hstep.trans (grantTo_busy hbusy (Port.command_eq hi)),
      fun hidle hempty => hstep.trans (grantTo_not_ready hidle hempty)⟩
  · rw [step_sched hs]
    rfl
  · rw [step_sched hs]
    simp only [stepEvent, State.updPortAt, List.drop_one]
  · rw [step_sched hs]
    simp only [stepEvent, List.drop_one]
  · rw [step_unsched hs, he]
    rfl

/-! ### The validity of the units and the two flag registers at reset (rules R8, R33, R34, R41) -/

/-- An element size is valid when it is a positive multiple of 4. -/
theorem validSize_iff (b : U32) :
    (decide (0#32 < b) && decide (b.toNat % 4 = 0)) = true ↔ b.toNat ≠ 0 ∧ b.toNat % 4 = 0 := by
  simp [BitVec.lt_def, Nat.pos_iff_ne_zero]

/-- `RING_VALID`; the bound on the capacity follows from its being a power of two. -/
theorem ringValid_iff (cfg : Params) :
    ringValid cfg = true ↔
      (∃ e : Nat, e ≤ 31 ∧ cfg.c0.toNat = 2 ^ e) ∧ cfg.e0.toNat ≠ 0 ∧ cfg.e0.toNat % 4 = 0 := by
  rw [← ispow2_iff, ← validSize_iff]
  have hle := ispow2_le (x := cfg.c0)
  simp only [ringValid, Bool.and_eq_true, decide_eq_true_eq]
  tauto

/-- `Q_VALID`. -/
theorem qValid_iff (cfg : Params) : qValid cfg = true ↔ cfg.maxThreads.toNat ≠ 0 := by
  simp [qValid, BitVec.lt_def, Nat.pos_iff_ne_zero]

/-- `DQ_VALID`. -/
theorem dqValid_iff (cfg : Params) :
    dqValid cfg = true ↔
      cfg.maxThreads.toNat ≠ 0 ∧ (∃ e : Nat, e ≤ 31 ∧ cfg.dqSize.toNat = 2 ^ e) ∧
        (cfg.dqEsize.toNat ≠ 0 ∧ cfg.dqEsize.toNat % 4 = 0) ∧ cfg.dqPsync ≠ .st := by
  rw [← qValid_iff, ← ispow2_iff, ← validSize_iff]
  have hle := ispow2_le (x := cfg.dqSize)
  simp only [dqValid, Bool.and_eq_true, decide_eq_true_eq]
  tauto

/-- The bits of `STATUS` at reset. -/
theorem resetStatus_bits (cfg : Params) :
    (resetStatus cfg).getLsbD 0 = ringValid cfg ∧ (resetStatus cfg).getLsbD 1 = qValid cfg ∧
      (resetStatus cfg).getLsbD 2 = dqValid cfg ∧ (resetStatus cfg).getLsbD 3 = dqValid cfg := by
  unfold resetStatus
  generalize ringValid cfg = a, qValid cfg = b, dqValid cfg = c
  revert a b c
  decide

/-- `STATUS` has no other bit at reset. -/
theorem resetStatus_high (cfg : Params) : resetStatus cfg &&& ~~~(15#64) = 0#64 := by
  unfold resetStatus
  generalize ringValid cfg = a, qValid cfg = b, dqValid cfg = c
  revert a b c
  decide

/-- `FAULT` at reset is `F_CFG` when a unit is invalid. -/
theorem resetFault_eq (cfg : Params) :
    resetFault cfg = if ringValid cfg = true ∧ qValid cfg = true ∧ dqValid cfg = true then 0#64 else 1#64 := by
  unfold resetFault
  generalize ringValid cfg = a, qValid cfg = b, dqValid cfg = c
  revert a b c
  decide

/-! ### The other registers at reset (rule R41) -/

/-- Reading a list of equal values, with that value where the list ends. -/
theorem getD_replicate_self {α : Type} (n i : Nat) (x : α) : (List.replicate n x).getD i x = x := by
  rw [List.getD_eq_getElem?_getD, List.getElem?_getD_replicate_default_eq]

@[simp] theorem State.resetWith_side (cfg : Params) (r : RingId) (sd : Side) :
    (State.resetWith cfg).side r sd = SideRegs.reset := by
  cases r <;> cases sd <;> rfl

/-- No byte of storage holds a value (rule R26). -/
@[simp] theorem State.resetWith_mem (cfg : Params) (r : RingId) : ((State.resetWith cfg).ring r).mem = [] := by
  cases r <;> rfl

@[simp] theorem State.resetWith_regd (cfg : Params) (i : Nat) : (State.resetWith cfg).regd i = false := by
  simp only [State.regd, State.resetWith, getD_replicate_self, BitVec.getLsbD_zero]

@[simp] theorem State.resetWith_cntOf (cfg : Params) (i : Nat) : (State.resetWith cfg).cntOf i = 0#64 :=
  getD_replicate_self _ i _

@[simp] theorem State.resetWith_lockOf (cfg : Params) (i : Nat) : (State.resetWith cfg).lockOf i = 0#32 :=
  getD_replicate_self _ i _

/-- Every port is a reset port. -/
theorem State.eq_reset_of_mem_resetWith_ports {cfg : Params} {q : Port} (h : q ∈ (State.resetWith cfg).ports) :
    q = Port.reset := List.eq_of_mem_replicate h

/-- Settles O8: the validity predicates in numbers give the flag registers; every other field is written out in
`State.resetWith`. -/
theorem resetValues : Obligations.ResetValues := by
  refine ⟨fun s cfg es hs => ?_, rfl, fun cfg => ?_⟩
  · exact step_sched hs
  · intro t capacity size ringGood qGood dqGood
    have hring : ringValid cfg = true ↔ ringGood := ringValid_iff cfg
    have hq : qValid cfg = true ↔ qGood := qValid_iff cfg
    have hdq : dqValid cfg = true ↔ dqGood := dqValid_iff cfg
    have hvalid := and_congr hring (and_congr hq hdq)
    obtain ⟨hb0, hb1, hb2, hb3⟩ := resetStatus_bits cfg
    refine ⟨rfl, State.resetWith_side cfg, fun r a => ?_, rfl, rfl, rfl, List.length_replicate, State.resetWith_regd cfg,
      List.length_replicate, State.resetWith_cntOf cfg, List.length_replicate, State.resetWith_lockOf cfg,
      hb0 ▸ hring, hb1 ▸ hq, hb2 ▸ hdq, hb3 ▸ hdq, rfl, rfl, rfl, rfl, resetStatus_high cfg,
      fun hgood => (resetFault_eq cfg).trans (if_pos (hvalid.mpr hgood)),
      fun hbad => (resetFault_eq cfg).trans (if_neg (mt hvalid.mp hbad)),
      List.length_replicate, fun q hmem => ?_, rfl⟩
    · rw [State.resetWith_mem]
      rfl
    · rw [State.eq_reset_of_mem_resetWith_ports hmem]
      exact ⟨rfl, rfl, rfl⟩

/-! ### The CSR map (rules R39, R40) -/

/-- The tag of a discipline as a number (rule R21). -/
theorem syncTag_toNat (d : Sync) :
    (syncTag d).toNat = if d = .st then 0 else if d = .mt then 1 else if d = .hts then 2 else 3 := by
  cases d <;> rfl

/-- The sync tags as a CSR: the producer's in bits 1:0, the consumer's in bits 3:2. -/
theorem syncCsr_eq (cfg : Params) (r : RingId) :
    syncCsr cfg r =
      BitVec.ofNat 64 ((syncTag (syncOf cfg r .prod)).toNat + 4 * (syncTag (syncOf cfg r .cons)).toNat) := by
  unfold syncCsr
  generalize syncTag (syncOf cfg r .prod) = x, syncTag (syncOf cfg r .cons) = y
  revert x y
  decide

/-- The producer tag of the defer queue: single-agent with one producer, else as configured (rule R7). -/
theorem syncTag_defer_prod (cfg : Params) :
    (syncTag (syncOf cfg .defer .prod)).toNat =
      if cfg.dqMt = .sp then 0 else (syncTag cfg.dqPsync).toNat := by
  unfold syncOf
  cases cfg.dqMt <;> rfl

/-- `pack` in numbers (rule R120). -/
theorem pack_eq_ofNat (lo hi : U32) : pack lo hi = BitVec.ofNat 64 (lo.toNat + 2 ^ 32 * hi.toNat) := by
  apply BitVec.eq_of_toNat_eq
  have hlo := lo.isLt
  have hhi := hi.isLt
  rw [pack, BitVec.toNat_append, BitVec.toNat_ofNat, ← Nat.shiftLeft_add_eq_or_of_lt hlo, Nat.shiftLeft_eq]
  omega

/-- An owner register as a CSR; an owner beyond 32 bits is cut (log entry 10). -/
theorem Owner.csr_eq (o : Owner) :
    o.csr = if o.valid = true then BitVec.ofNat 64 (1 + 2 ^ 32 * o.owner) else 0#64 := by
  unfold Owner.csr
  rw [pack_eq_ofNat]
  congr 1
  apply BitVec.eq_of_toNat_eq
  simp only [BitVec.toNat_ofNat]
  omega

/-- The default `HTD_MAX`: an eighth of the capacity, rounded down (rule R7). -/
theorem eighth_eq (c : U32) : c / 8#32 = BitVec.ofNat 32 (c.toNat / 8) := by
  apply BitVec.eq_of_toNat_eq
  have hc := c.isLt
  have h8 : (8#32).toNat = 8 := rfl
  rw [BitVec.toNat_udiv, h8, BitVec.toNat_ofNat]
  omega

theorem htdMax_fifo (cfg : Params) :
    htdMax cfg .fifo = cfg.htdCfg0.getD (BitVec.ofNat 32 (cfg.c0.toNat / 8)) := by
  unfold htdMax
  rw [← eighth_eq]
  cases cfg.htdCfg0 <;> rfl

theorem htdMax_defer_csr (cfg : Params) :
    (htdMax cfg .defer).setWidth 64 = BitVec.ofNat 64 (cfg.dqSize.toNat / 8) := by
  have hc := cfg.dqSize.isLt
  have heighth : htdMax cfg .defer = BitVec.ofNat 32 (cfg.dqSize.toNat / 8) := eighth_eq cfg.dqSize
  apply BitVec.eq_of_toNat_eq
  rw [heighth, BitVec.toNat_setWidth, BitVec.toNat_ofNat, BitVec.toNat_ofNat]
  omega

/-- The numbers of the scalar registers. -/
def scalarCsrs : List U32 :=
  [0x0000#32, 0x0010#32, 0x0011#32, 0x0012#32, 0x0013#32, 0x0020#32, 0x0021#32, 0x0022#32, 0x0023#32, 0x0030#32,
    0x0040#32, 0x0041#32, 0x0042#32, 0x0043#32, 0x0044#32, 0x0100#32, 0x0101#32, 0x0102#32, 0x0103#32, 0x0110#32,
    0x0111#32, 0x0112#32, 0x0113#32, 0x0120#32, 0x0121#32, 0x0122#32, 0x0123#32, 0x0200#32, 0x0201#32, 0x0202#32,
    0x0300#32, 0x0301#32]

/-- The numbers of the banked registers. -/
def bankedCsrs : List U32 := [0x1000#32, 0x1001#32, 0x1002#32]

/-- A number that is in neither list names no register. -/
theorem State.csr_unmapped (s : State) {reg : U32} (idx : U64) (h : reg ∉ scalarCsrs ++ bankedCsrs) :
    s.csr reg idx = none := by
  unfold State.csr
  split
  case h_36 => rfl
  all_goals exact absurd (by decide) h

/-- Register `reg` is a scalar that reads `v`: at index 0, and it has no other index (rule R39). -/
def State.ReadsScalar (s : State) (reg : U32) (v : U64) : Prop :=
  s.csr reg 0#64 = some v ∧ ∀ idx, idx ≠ 0#64 → s.csr reg idx = none

theorem State.readsScalar_of_row {s : State} {reg : U32} {v : U64} (hrow : ∀ idx, s.csr reg idx = csrScalar idx v) :
    s.ReadsScalar reg v :=
  ⟨(hrow 0#64).trans (if_pos rfl), fun idx hidx => (hrow idx).trans (if_neg hidx)⟩

/-- A row whose value the model computes. -/
theorem State.readsScalar_of_row_eq {s : State} {reg : U32} {v w : U64}
    (hrow : ∀ idx, s.csr reg idx = csrScalar idx v) (hv : v = w) : s.ReadsScalar reg w :=
  hv ▸ State.readsScalar_of_row hrow

/-- Settles O40: each row of the map is the model's row with its value in numbers, and no other number is mapped. -/
theorem csrMap : Obligations.CsrMap := by
  intro s owner tag scalars
  have htag : ∀ d, (syncTag d).toNat = tag d := syncTag_toNat
  have hfifo : syncCsr s.cfg .fifo = BitVec.ofNat 64 (tag s.cfg.psync0 + 4 * tag s.cfg.csync0) := by
    rw [syncCsr_eq, htag, htag]
    rfl
  have hdefer : syncCsr s.cfg .defer =
      BitVec.ofNat 64 ((if s.cfg.dqMt = .sp then 0 else tag s.cfg.dqPsync) + 4 * 2) := by
    rw [syncCsr_eq, syncTag_defer_prod, htag]
    rfl
  have hstored {reg : U32} {v : U64} : (∀ idx, s.csr reg idx = csrScalar idx v) → s.ReadsScalar reg v :=
    State.readsScalar_of_row
  have hderived {reg : U32} {v w : U64} : (∀ idx, s.csr reg idx = csrScalar idx v) → v = w → s.ReadsScalar reg w :=
    State.readsScalar_of_row_eq
  have hscalars : ∀ x ∈ scalars, s.ReadsScalar x.1 x.2 := by
    simp only [scalars, List.forall_mem_cons]
    exact ⟨
      -- the configuration
      hstored fun _ => rfl, hstored fun _ => rfl, hstored fun _ => rfl, hderived (fun _ => rfl) hfifo,
      hderived (fun _ => rfl) (congrArg _ (htdMax_fifo s.cfg)), hstored fun _ => rfl, hstored fun _ => rfl,
      hderived (fun _ => rfl) hdefer, hderived (fun _ => rfl) (htdMax_defer_csr s.cfg), hstored fun _ => rfl,
      hstored fun _ => rfl, hstored fun _ => rfl, hstored fun _ => rfl, hstored fun _ => rfl,
      hderived (fun _ => rfl) (by cases s.cfg.dqMt <;> rfl),
      -- the control words
      hstored fun _ => rfl, hstored fun _ => rfl, hstored fun _ => rfl, hstored fun _ => rfl,
      hstored fun _ => rfl, hstored fun _ => rfl, hstored fun _ => rfl, hstored fun _ => rfl,
      -- the owner registers
      hderived (fun _ => rfl) (Owner.csr_eq _), hderived (fun _ => rfl) (Owner.csr_eq _),
      hderived (fun _ => rfl) (Owner.csr_eq _), hderived (fun _ => rfl) (Owner.csr_eq _),
      -- the tokens, the threads and the flags
      hstored fun _ => rfl, hstored fun _ => rfl, hstored fun _ => rfl, hstored fun _ => rfl, hstored fun _ => rfl,
      List.forall_mem_nil _⟩
  refine ⟨hscalars, fun idx => ⟨rfl, rfl, rfl⟩, fun reg idx hscalar hbank => s.csr_unmapped idx ?_⟩
  simpa only [List.mem_append, not_or] using ⟨hscalar, hbank⟩

end Sys2Proof.Machine
end

section
/-! PROOFS. Every meaning read as one function of the phase: `lineFlow` for a labelled line, `enterState` for an accepted
command; and every event read as what it does to the ports. Later proofs go through these and not through the 18
meanings. -/

namespace Sys2Proof.Machine

/-! ### One equation for the labelled lines of all commands -/

/-- The ring that a command's `COUNTSEQ` counts (spec/41 rules R174, R175, spec/43 rule R224). -/
def countUse : Instr → Option RingId
  | .ringCount => some .fifo
  | .ringFree => some .fifo
  | .dqEnq => some .defer
  | _ => none

/-- What a command does when its `COUNTSEQ` returns. -/
def afterCountOf : Instr → State → Flow
  | .ringCount => fun u => .ended (u.respond .ok u.lat.cntv 0#64)
  | .ringFree => fun u => .ended (u.respond .ok (cap u.cfg .fifo - u.lat.cntv) 0#64)
  | .dqEnq => dqEnqCounted
  | _ => fun _ => .stop .strayPhase

/-- What a command does when the `CHECKSEQ` of its own code returns (spec/42 rules R196, R197); none for the commands that
have no such check. -/
def afterCheckOf : Instr → Option (State → Flow)
  | .check _ _ => some checkDone
  | .sync _ => some syncDone
  | _ => none

/-- What a command does when its reclaim pass returns (spec/43 rules R224 to R226). -/
def afterReclaimOf : Instr → Option (State → Flow)
  | .dqEnq => some dqEnqDone
  | .dqReclaim _ => some dqReclaimDone
  | .dqDelete => some dqDeletePassed
  | _ => none

/-- Line `C1` (spec/44 rule R240). -/
def csrLine (reg : U32) (idx : U64) (s : State) : Flow :=
  match s.csr reg idx with
  | some v => .ended (s.respond .ok 0#32 v)
  | none => .stop .strayPhase

/-- A command's own code that has one labelled line. -/
def onlyAt (first l : Label) (x : Flow) : Flow := if l = first then x else .stop .strayPhase

/-- A line of a command's own code, outside every sub-sequence. -/
def ownLine (i : Instr) (l : Label) (s : State) : Flow :=
  match i with
  | .thrReg tid => onlyAt .g1 l (regLine tid.toNat s)
  | .thrUnreg tid => onlyAt .u1 l (unregLine tid.toNat s)
  | .quiescent tid =>
    if l = .q1 then quiescentProbe tid.toNat s else onlyAt .q2 l (answer .ok (s.setCnt tid.toNat s.lat.qt))
  | .start => onlyAt .a1 l (tkinc s fun t => .ended (t.respond .ok 0#32 t.lat.tok))
  | .sync tid =>
    if l = .y1 then syncBegin tid s
    else if l = .y2 then .goto .y3 [] (s.updLat fun x => { x with qt := s.token })
    else onlyAt .y3 l (syncCheck (s.setCnt tid.toNat s.lat.qt))
  | .rdLock tid => onlyAt .l1 l (lockLine tid.toNat s)
  | .rdUnlock tid => onlyAt .l2 l (unlockLine tid.toNat s)
  | .dqEnq => onlyAt .d1 l (dqEnqBegin s)
  | .dqReclaim n => onlyAt .r1 l (ifAlive s fun t => (reclaimCall (.num n) t).within .reclaimseq dqReclaimDone)
  | .dqDelete =>
    if l = .z0 then ifAlive s fun t => (reclaimCall .inf t).within .reclaimseq dqDeletePassed
    else onlyAt .z1 l (.ended (s.killDq.respond .ok s.lat.freed 0#64))
  | .csrRd reg idx => onlyAt .c1 l (csrLine reg idx s)
  | .enqBulk _ => .stop .strayPhase
  | .enqBurst _ => .stop .strayPhase
  | .deqBulk _ => .stop .strayPhase
  | .deqBurst _ => .stop .strayPhase
  | .ringCount => .stop .strayPhase
  | .ringFree => .stop .strayPhase
  | .check _ _ => .stop .strayPhase

/-- The labelled line `l` of the command `i` under the return stack `st`. -/
def lineFlow (i : Instr) (l : Label) (st : List Seq) (s : State) : Flow :=
  match st with
  | [] => ownLine i l s
  | .ringop :: inner =>
    match ringopUse i with
    | some (r, sd) => (ringopLine r sd l inner s).within .ringop (afterRingopOf i)
    | none => .stop .strayPhase
  | [.countseq] =>
    match countUse i with
    | some r => (countLine r l s).within .countseq (afterCountOf i)
    | none => .stop .strayPhase
  | [.checkseq] =>
    match afterCheckOf i with
    | some k => (checkLine l s).within .checkseq k
    | none => .stop .strayPhase
  | .reclaimseq :: inner =>
    match afterReclaimOf i with
    | some k => (reclaimLine l inner s).within .reclaimseq k
    | none => .stop .strayPhase
  | _ => .stop .strayPhase

theorem lineFlow_ringop {i : Instr} {r : RingId} {sd : Side} (h : ringopUse i = some (r, sd)) (l : Label)
    (inner : List Seq) (s : State) :
    lineFlow i l (.ringop :: inner) s = (ringopLine r sd l inner s).within .ringop (afterRingopOf i) := by
  simp only [lineFlow, h]

theorem lineFlow_count {i : Instr} {r : RingId} (h : countUse i = some r) (l : Label) (s : State) :
    lineFlow i l [.countseq] s = (countLine r l s).within .countseq (afterCountOf i) := by
  simp only [lineFlow, h]

theorem lineFlow_check {i : Instr} {k : State → Flow} (h : afterCheckOf i = some k) (l : Label) (s : State) :
    lineFlow i l [.checkseq] s = (checkLine l s).within .checkseq k := by
  simp only [lineFlow, h]

theorem lineFlow_reclaim {i : Instr} {k : State → Flow} (h : afterReclaimOf i = some k) (l : Label) (inner : List Seq)
    (s : State) : lineFlow i l (.reclaimseq :: inner) s = (reclaimLine l inner s).within .reclaimseq k := by
  simp only [lineFlow, h]

/-- A command without sub-sequences has no line under a return stack. -/
theorem lineFlow_cons {i : Instr} (h1 : ringopUse i = none) (h2 : countUse i = none) (h3 : afterCheckOf i = none)
    (h4 : afterReclaimOf i = none) (l : Label) (q : Seq) (inner : List Seq) (s : State) :
    lineFlow i l (q :: inner) s = .stop .strayPhase := by
  unfold lineFlow
  split <;> simp_all

theorem execThread_busy {i : Instr} {first : Label} {tid : U32} {line : State → Flow} {s : State} {l : Label}
    {st : List Seq} (h : s.atLine l st) (hfirst : ownLine i first s = line s)
    (hother : ∀ l, l ≠ first → ownLine i l s = .stop .strayPhase)
    (hcons : ∀ q inner, lineFlow i l (q :: inner) s = .stop .strayPhase) :
    execThread first tid line s = (lineFlow i l st s).outcome := by
  rw [execThread, runCommand_busy h.1 h.2]
  rcases st with _ | ⟨q, inner⟩
  · by_cases hl : l = first
    · subst hl
      simp [lineFlow, hfirst]
    · simp [lineFlow, hl, hother l hl]
  · simp [hcons]

theorem execRingop_busy {i : Instr} {sd : Side} {n : U32} {beh : Beh} {done : State → Flow} {s : State} {l : Label}
    {st : List Seq} (h : s.atLine l st) (hr : ringopUse i = some (.fifo, sd)) (hd : afterRingopOf i = done)
    (hother : ∀ l st, (∀ inner, st ≠ .ringop :: inner) → lineFlow i l st s = .stop .strayPhase) :
    execRingop sd n beh done s = (lineFlow i l st s).outcome := by
  rw [execRingop, runCommand_busy h.1 h.2]
  split
  · rw [lineFlow_ringop hr, hd]
  · rename_i hst
    rw [hother l st hst]

theorem execCount_busy {i : Instr} {done : State → Flow} {s : State} {l : Label}
    {st : List Seq} (h : s.atLine l st) (hr : countUse i = some .fifo) (hd : afterCountOf i = done)
    (hother : ∀ l st, st ≠ [.countseq] → lineFlow i l st s = .stop .strayPhase) :
    execCount done s = (lineFlow i l st s).outcome := by
  rw [execCount, runCommand_busy h.1 h.2]
  split
  · rw [lineFlow_count hr, hd]
  · rename_i hst
    rw [hother l st hst]

/-- A command that tells its lines apart by label and stack both. -/
theorem execSync_busy {tid : U32} {s : State} {l : Label} {st : List Seq} (h : s.atLine l st) :
    execSync tid s = (lineFlow (.sync tid) l st s).outcome := by
  rw [execSync, runCommand_busy h.1 h.2]
  rcases st with _ | ⟨q, inner⟩
  · cases l <;> rfl
  · cases q <;> cases inner <;> cases l <;> rfl

theorem execDqEnq_busy {s : State} {l : Label} {st : List Seq} (h : s.atLine l st) :
    execDqEnq s = (lineFlow .dqEnq l st s).outcome := by
  rcases st with _ | ⟨q, inner⟩
  · rw [execDqEnq, runCommand_busy h.1 h.2]
    cases l <;> rfl
  · cases q with
    | ringop => exact execDqEnq_ringop h
    | reclaimseq => exact execDqEnq_reclaim h
    | countseq =>
      cases inner with
      | nil => exact execDqEnq_count h
      | cons _ _ => rw [execDqEnq, runCommand_busy h.1 h.2]; cases l <;> rfl
    | _ => rw [execDqEnq, runCommand_busy h.1 h.2]; cases inner <;> cases l <;> rfl

theorem execDqReclaim_busy {n : U32} {s : State} {l : Label} {st : List Seq} (h : s.atLine l st) :
    execDqReclaim n s = (lineFlow (.dqReclaim n) l st s).outcome := by
  rcases st with _ | ⟨q, inner⟩
  · rw [execDqReclaim, runCommand_busy h.1 h.2]
    cases l <;> rfl
  · cases q with
    | reclaimseq => exact execDqReclaim_reclaim h
    | _ => rw [execDqReclaim, runCommand_busy h.1 h.2]; cases inner <;> cases l <;> rfl

theorem execDqDelete_busy {s : State} {l : Label} {st : List Seq} (h : s.atLine l st) :
    execDqDelete s = (lineFlow .dqDelete l st s).outcome := by
  rcases st with _ | ⟨q, inner⟩
  · rw [execDqDelete, runCommand_busy h.1 h.2]
    cases l <;> rfl
  · cases q with
    | reclaimseq => exact execDqDelete_reclaim h
    | _ => rw [execDqDelete, runCommand_busy h.1 h.2]; cases inner <;> cases l <;> rfl

theorem execQuiescent_busy {tid : U32} {s : State} {l : Label} {st : List Seq} (h : s.atLine l st) :
    execQuiescent tid s = (lineFlow (.quiescent tid) l st s).outcome := by
  rw [execQuiescent, runCommand_busy h.1 h.2]
  rcases st with _ | ⟨q, inner⟩
  · cases l <;> rfl
  · rw [lineFlow_cons rfl rfl rfl rfl]
    cases l <;> rfl

theorem execStart_busy {s : State} {l : Label} {st : List Seq} (h : s.atLine l st) :
    execStart s = (lineFlow .start l st s).outcome := by
  rw [execStart, runCommand_busy h.1 h.2]
  rcases st with _ | ⟨q, inner⟩
  · by_cases hl : l = .a1
    · subst hl
      simp only [lineFlow, ownLine, onlyAt, if_pos]
    · simp only [lineFlow, ownLine, onlyAt, if_neg hl]
      split
      · exact absurd rfl hl
      · rfl
  · rw [lineFlow_cons rfl rfl rfl rfl]
    split
    · rename_i hst
      cases hst
    · rfl

theorem execCsrRd_busy {reg : U32} {idx : U64} {s : State} {l : Label} {st : List Seq} (h : s.atLine l st) :
    execCsrRd reg idx s = (lineFlow (.csrRd reg idx) l st s).outcome := by
  rw [execCsrRd, runCommand_busy h.1 h.2]
  rcases st with _ | ⟨q, inner⟩
  · by_cases hl : l = .c1
    · subst hl
      cases hv : s.csr reg idx <;> simp [lineFlow, ownLine, onlyAt, csrLine, hv]
    · simp only [lineFlow, ownLine, onlyAt, if_neg hl]
      split
      · exact absurd rfl hl
      · rfl
  · rw [lineFlow_cons rfl rfl rfl rfl]
    split
    · rename_i hst _
      cases hst
    · rfl

/-- A command's step at a labelled line. -/
theorem exec_busy {i : Instr} {s : State} {l : Label} {st : List Seq} (h : s.atLine l st) :
    exec i s = (lineFlow i l st s).outcome := by
  cases i with
  | enqBulk n =>
    refine execRingop_busy h rfl rfl fun l st hst => ?_
    rcases st with _ | ⟨q, inner⟩
    · rfl
    · cases q <;> cases inner <;> first | rfl | exact absurd rfl (hst _)
  | enqBurst n =>
    refine execRingop_busy h rfl rfl fun l st hst => ?_
    rcases st with _ | ⟨q, inner⟩
    · rfl
    · cases q <;> cases inner <;> first | rfl | exact absurd rfl (hst _)
  | deqBulk n =>
    refine execRingop_busy h rfl rfl fun l st hst => ?_
    rcases st with _ | ⟨q, inner⟩
    · rfl
    · cases q <;> cases inner <;> first | rfl | exact absurd rfl (hst _)
  | deqBurst n =>
    refine execRingop_busy h rfl rfl fun l st hst => ?_
    rcases st with _ | ⟨q, inner⟩
    · rfl
    · cases q <;> cases inner <;> first | rfl | exact absurd rfl (hst _)
  | ringCount =>
    refine execCount_busy h rfl rfl fun l st hst => ?_
    rcases st with _ | ⟨q, inner⟩
    · rfl
    · cases q <;> cases inner <;> first | rfl | exact absurd rfl hst
  | ringFree =>
    refine execCount_busy h rfl rfl fun l st hst => ?_
    rcases st with _ | ⟨q, inner⟩
    · rfl
    · cases q <;> cases inner <;> first | rfl | exact absurd rfl hst
  | check t wait =>
    rw [exec, execCheck, runCommand_busy h.1 h.2]
    rcases st with _ | ⟨q, inner⟩
    · rfl
    · cases q <;> cases inner <;> rfl
  | sync tid => exact execSync_busy h
  | dqEnq => exact execDqEnq_busy h
  | dqReclaim n => exact execDqReclaim_busy h
  | dqDelete => exact execDqDelete_busy h
  | thrReg tid =>
    exact execThread_busy h rfl (fun l hl => if_neg hl)
      (fun q inner => lineFlow_cons rfl rfl rfl rfl l q inner s)
  | thrUnreg tid =>
    exact execThread_busy h rfl (fun l hl => if_neg hl)
      (fun q inner => lineFlow_cons rfl rfl rfl rfl l q inner s)
  | rdLock tid =>
    exact execThread_busy h rfl (fun l hl => if_neg hl)
      (fun q inner => lineFlow_cons rfl rfl rfl rfl l q inner s)
  | rdUnlock tid =>
    exact execThread_busy h rfl (fun l hl => if_neg hl)
      (fun q inner => lineFlow_cons rfl rfl rfl rfl l q inner s)
  | quiescent tid => exact execQuiescent_busy h
  | start => exact execStart_busy h
  | csrRd reg idx => exact execCsrRd_busy h

/-! ### One equation for the acceptance steps of all commands -/

/-- An accepted command enters its first line: the latches it writes before it (log entry 14). -/
def enterState (i : Instr) (u : State) : State :=
  match i with
  | .check t wait => u.updLat fun l => { l with t := t, wt := wait }
  | _ =>
    match ringRequest i with
    | some (_, n, beh) => u.updLat fun l => { l with n := n, beh := beh }
    | none => u

/-- An accepted command goes to its first line. -/
def enterOf (i : Instr) (u : State) : Flow := .goto (firstLine u.cfg i).1 (firstLine u.cfg i).2 (enterState i u)

/-- A command's acceptance step. -/
theorem exec_idle {i : Instr} {s : State} (hc : s.granted) (hp : s.phase = .idle) :
    exec i s = (accept (unitOf i) (operandErrorOf s i) (zeroCountOf i) (enterOf i) s).outcome := by
  cases i <;> simp only [exec, execEnqBulk, execEnqBurst, execDeqBulk, execDeqBurst, execRingop, execRingCount,
    execRingFree, execCount, execThrReg, execThrUnreg, execThread, execQuiescent, execStart, execCheck, execSync,
    execRdLock, execRdUnlock, execDqEnq, execDqReclaim, execDqDelete, execCsrRd, runCommand_idle hc hp] <;> rfl

/-- A step of a command that gives a next state is taken by a port that exists. -/
theorem granted_of_exec {i : Instr} {s t : State} (h : exec i s = .next t) : s.granted := by
  cases i <;> simp only [exec, execEnqBulk, execEnqBurst, execDeqBulk, execDeqBurst, execRingop, execRingCount,
    execRingFree, execCount, execThrReg, execThrUnreg, execThread, execQuiescent, execStart, execCheck, execSync,
    execRdLock, execRdUnlock, execDqEnq, execDqReclaim, execDqDelete, execCsrRd] at h <;> exact runCommand_granted h

/-! ### What one event does -/

/-- The command `i` is the one that the granted port accepts or executes. -/
def Runs (i : Instr) (s : State) : Prop :=
  s.granted ∧
    match s.phase with
    | .idle => ∃ m rest, s.port.cmdch = m :: rest ∧ decodeMessage s.cfg m = .ok i
    | .busy _ _ => s.port.command = some i

/-- Port `p` becomes `q`; nothing else changes but `FREECH` and the model's own fields. -/
def State.withPort (s : State) (p : Nat) (q : Port) : State := { s with ports := s.ports.set p q }

/-- The model's own fields, replaced. -/
def State.withOwn (s : State) (cur : Nat) (sched : List Event) (tick : Nat) : State :=
  { s with cur := cur, sched := sched, tick := tick }

/-- Everything one step can do. -/
inductive StepKind (s : State) : State → Prop
  /-- Nothing but the model's own fields and `FREECH` changes. -/
  | still (sched : List Event) (tick : Nat) (freech : List FreeMsg) :
    StepKind s { s.withOwn s.cur sched tick with freech := freech }
  /-- Only the channels of one port change. -/
  | touch (p : Nat) (q q' : Port) (cur : Nat) (sched : List Event) (tick : Nat) (hq : s.ports[p]? = some q)
    (hphase : q'.phase = q.phase) (hlat : q'.lat = q.lat) : StepKind s ((s.withOwn cur sched tick).withPort p q')
  | run (i : Instr) (p : Nat) (sched : List Event) (tick : Nat) (t : State) (hruns : Runs i (s.withOwn p sched tick))
    (hexec : exec i (s.withOwn p sched tick) = .next t) : StepKind s t
  | reset (cfg : Params) (sched : List Event) (tick : Nat) (hev : (nextEvent s).1 = some (.reset cfg)) :
    StepKind s { State.resetWith cfg with sched := sched, tick := tick }

theorem list_modify_eq_set {α : Type} {l : List α} {p : Nat} {a : α} (f : α → α) (h : l[p]? = some a) :
    l.modify p f = l.set p (f a) := by
  rw [List.modify_eq_set_getElem?, h]
  rfl

/-- A change of the channels of one port, if there is such a port. -/
theorem StepKind.updPortAt {s : State} (p : Nat) (f : Port → Port) (cur : Nat) (sched : List Event) (tick : Nat)
    (hf : ∀ q, s.ports[p]? = some q → (f q).phase = q.phase ∧ (f q).lat = q.lat)
    (hcur : s.ports[p]? = none → cur = s.cur) : StepKind s ((s.withOwn cur sched tick).updPortAt p f) := by
  cases hq : s.ports[p]? with
  | none =>
    have hlen : s.ports.length ≤ p := List.getElem?_eq_none_iff.mp hq
    have heq : (s.withOwn cur sched tick).updPortAt p f =
        { s.withOwn s.cur sched tick with freech := s.freech } := by
      simp only [State.updPortAt, State.withOwn, List.modify_eq_self hlen, hcur hq]
    exact heq ▸ .still sched tick s.freech
  | some q =>
    have heq : (s.withOwn cur sched tick).updPortAt p f = (s.withOwn cur sched tick).withPort p (f q) := by
      simp only [State.updPortAt, State.withOwn, State.withPort, list_modify_eq_set f hq]
    exact heq ▸ .touch p q (f q) cur sched tick hq (hf q hq).1 (hf q hq).2

/-- The granted port. -/
theorem State.withOwn_port {s : State} {p : Nat} {q : Port} {sched : List Event} {tick : Nat}
    (hq : s.ports[p]? = some q) : (s.withOwn p sched tick).granted ∧ (s.withOwn p sched tick).port = q :=
  ⟨(List.getElem?_eq_some_iff.mp hq).1, by simp [State.port, State.withOwn, List.getD_eq_getElem?_getD, hq]⟩

/-- The step of a granted port. -/
theorem StepKind.grant {s t : State} {p : Nat} {q : Port} {sched : List Event} {tick : Nat}
    (hq : s.ports[p]? = some q) (h : grantTo p q (s.withOwn s.cur sched tick) = .next t) : StepKind s t := by
  obtain ⟨hg, hport⟩ := State.withOwn_port (sched := sched) (tick := tick) hq
  unfold grantTo at h
  split at h
  · rename_i l st hphase
    split at h
    · rename_i i hi
      refine .run i p sched tick t ⟨hg, ?_⟩ h
      rw [State.phase, hport, hphase]
      exact hi
    · cases h
  · rename_i m rest hphase hch
    split at h
    · rename_i i hi
      refine .run i p sched tick t ⟨hg, ?_⟩ h
      rw [State.phase, hport, hphase]
      exact ⟨m, rest, hch, hi⟩
    · cases h
      have heq : State.acceptIllegal (s.withOwn p sched tick) =
          (s.withOwn p sched tick).updPortAt p fun q => { q with
            phase := .idle
            cmdch := q.cmdch.tail
            rspch := q.rspch ++ [{ word := responseWord .eIllcmd 0#32 0#64, payload := [] }] } := by
        simp only [State.acceptIllegal, State.respond, State.respondWith, State.popCmd, State.updPort, State.updPortAt,
          State.withOwn, list_modify_modify]
      refine heq ▸ .updPortAt p _ p sched tick (fun q' hq' => ⟨?_, rfl⟩) fun hnone => ?_
      · rw [hq] at hq'
        cases hq'
        exact hphase.symm
      · rw [hq] at hnone
        cases hnone
  · cases h
    exact .still sched tick s.freech

/-- Everything one step can do. -/
theorem step_cases {s t : State} (h : step s = .next t) : StepKind s t := by
  obtain ⟨sched, tick, hnext⟩ : ∃ sched tick, (nextEvent s).2 = s.withOwn s.cur sched tick := by
    unfold nextEvent
    split
    · exact ⟨_, s.tick, rfl⟩
    · exact ⟨s.sched, _, rfl⟩
  rw [step, hnext] at h
  unfold stepEvent at h
  split at h
  · cases h
    exact .still sched tick s.freech
  · split at h
    · rename_i hq
      exact .grant hq h
    · cases h
      exact .still sched tick s.freech
  · cases h
    exact .updPortAt _ _ _ sched tick (fun _ _ => ⟨rfl, rfl⟩) fun _ => rfl
  · cases h
    exact .updPortAt _ _ _ sched tick (fun _ _ => ⟨rfl, rfl⟩) fun _ => rfl
  · cases h
    exact .still sched tick s.freech.tail
  · rename_i cfg hev
    cases h
    exact .reset cfg sched tick hev

end Sys2Proof.Machine
end

section
/-! PROOFS. The registers outside the rings (spec/10 rules R27 to R34) and the response channel: which labelled lines leave
them as they are, and what each of the others does to them, said once as `RegEffect`. -/

namespace Sys2Proof.Machine

/-! ### Lines that write no register -/

/-- Tokens, thread registers and flags are unchanged. -/
structure SameRegs (s t : State) : Prop where
  tokens : SameTokens s t
  threads : SameThreads s t
  flags : SameFlags s t

theorem SameRegs.refl (s : State) : SameRegs s s := ⟨⟨rfl, rfl⟩, ⟨rfl, rfl, rfl, rfl⟩, ⟨rfl, rfl⟩⟩

theorem SameRegs.trans {s t u : State} (h : SameRegs s t) (k : SameRegs t u) : SameRegs s u where
  tokens := ⟨k.tokens.1.trans h.tokens.1, k.tokens.2.trans h.tokens.2⟩
  threads := ⟨k.threads.1.trans h.threads.1, k.threads.2.1.trans h.threads.2.1, k.threads.2.2.1.trans h.threads.2.2.1,
    k.threads.2.2.2.trans h.threads.2.2.2⟩
  flags := ⟨k.flags.1.trans h.flags.1, k.flags.2.trans h.flags.2⟩

/-- Within a line: no register is written and nothing is answered. -/
structure Carries (s u : State) : Prop where
  regs : SameRegs s u
  answers : u.port.rspch = s.port.rspch
  granted : s.granted → u.granted

/-- A line that ends its command: no register is written and exactly one response is given. -/
structure Ends (s u : State) : Prop where
  regs : SameRegs s u
  idle : u.phase = .idle
  answers : ∃ x, u.port.rspch = s.port.rspch ++ [x]

theorem Carries.refl (s : State) : Carries s s := ⟨.refl s, rfl, id⟩

theorem Carries.trans {s t u : State} (h : Carries s t) (k : Carries t u) : Carries s u :=
  ⟨h.regs.trans k.regs, k.answers.trans h.answers, fun g => k.granted (h.granted g)⟩

theorem Carries.ends {s t u : State} (h : Carries s t) (k : Ends t u) : Ends s u :=
  ⟨h.regs.trans k.regs, k.idle, h.answers ▸ k.answers⟩

/-- An update of the rings. -/
theorem Carries.setRing (s : State) (r : RingId) (x : Ring) : Carries s (s.setRing r x) where
  regs := ⟨⟨by simp, by simp⟩, ⟨by simp, by simp, by simp, by simp⟩, ⟨by simp, by simp⟩⟩
  answers := by rw [State.port_congr s (s.setRing r x) (by simp) (by simp)]
  granted := fun h => by simpa [State.granted] using h

theorem Carries.updLat (s : State) (f : Latches → Latches) : Carries s (s.updLat f) where
  regs := ⟨⟨rfl, rfl⟩, ⟨rfl, rfl, rfl, rfl⟩, ⟨rfl, rfl⟩⟩
  answers := by rcases State.updPort_port_any s fun q => { q with lat := f q.lat } with h | h <;> simp [State.updLat, h]
  granted := fun h => by simpa [State.granted] using h

theorem Carries.setA (s : State) (r : RingId) (sd : Side) (w : U64) : Carries s (s.setA r sd w) := .setRing s r _

theorem Carries.setB (s : State) (r : RingId) (sd : Side) (w : U64) : Carries s (s.setB r sd w) := .setRing s r _

theorem Carries.setSown (s : State) (r : RingId) (sd : Side) (o : Owner) : Carries s (s.setSown r sd o) := .setRing s r _

theorem Carries.storeTail (s : State) (r : RingId) (sd : Side) (v : U32) : Carries s (s.storeTail r sd v) := by
  unfold State.storeTail
  split
  · exact .setA s r sd _
  · exact .setB s r sd _
  · exact .setB s r sd _
  · exact .setB s r sd _

theorem Ends.respondWith {s : State} (h : s.granted) (st : Status) (n : U32) (v : U64) (pl : List Element) :
    Ends s (s.respondWith st n v pl) where
  regs := ⟨⟨rfl, rfl⟩, ⟨rfl, rfl, rfl, rfl⟩, ⟨rfl, rfl⟩⟩
  idle := by simp [State.phase, State.respondWith_port s st n v pl h]
  answers := ⟨_, by simp [State.respondWith_port s st n v pl h]; rfl⟩

/-- However the line leaves its sub-sequence, it writes no register, and it gives a response exactly when it ends its
command. -/
abbrev Flow.Plain (s : State) (x : Flow) : Prop :=
  s.granted → x.Sat (fun _ _ => Carries s) (Carries s) (Ends s) fun _ => True

theorem Flow.plain_trans {s t : State} {x : Flow} (h : Carries s t) (k : x.Plain t) : x.Plain s := fun g =>
  (k (h.granted g)).imp (fun _ _ _ => h.trans) (fun _ => h.trans) (fun _ => h.ends) fun _ => id

theorem Flow.plain_within {s : State} {x : Flow} {q : Seq} {k : State → Flow} (h : x.Plain s)
    (hk : ∀ u, (k u).Plain u) : (x.within q k).Plain s := fun g =>
  Flow.Sat.within (h g) (fun _ _ _ => id) (fun u c => Flow.plain_trans c (hk u) g) (fun _ => id) fun _ => id

theorem plain_goto {s u : State} (h : Carries s u) (l : Label) (st : List Seq) : (Flow.goto l st u).Plain s := fun _ => h

theorem plain_ret {s u : State} (h : Carries s u) : (Flow.ret u).Plain s := fun _ => h

theorem plain_stop (s : State) (f : Fault) : (Flow.stop f).Plain s := fun _ => trivial

theorem plain_respond (st : Status) (n : U32) (v : U64) (s : State) : (Flow.ended (s.respond st n v)).Plain s :=
  fun g => Ends.respondWith g st n v []

theorem answer_plain (st : Status) (s : State) : (answer st s).Plain s := plain_respond st _ _ s

theorem loadAvail_carries (s : State) (r : RingId) (sd : Side) : Carries s (s.loadAvail r sd) := by
  unfold State.loadAvail
  exact .updLat s _

theorem reserveAvail_plain (r : RingId) (sd : Side) (next : Label) (s : State) : (reserveAvail r sd next s).Plain s := by
  simp only [reserveAvail]
  split
  · exact plain_ret (loadAvail_carries s r sd)
  · exact plain_goto (loadAvail_carries s r sd) next []

/-- `RESERVE` raises its one fault at `S1`, on a side that is owned. -/
theorem reserveLine_plain (r : RingId) (sd : Side) (l : Label) (s : State)
    (h : l = .s1 → (s.side r sd).sown.valid = false) : (reserveLine r sd l s).Plain s := by
  unfold reserveLine
  split
  · exact plain_goto (.updLat s _) _ _
  · exact reserveAvail_plain r sd _ s
  · unfold reserveCasMt
    split
    · exact plain_ret (.setA s r sd _)
    · exact plain_goto (.refl s) _ _
  · unfold reserveOwn
    rw [h rfl]
    exact plain_goto ((Carries.setSown s r sd _).trans (.updLat _ _)) _ _
  · simp only [reserveAvailSt]
    split
    · exact plain_ret ((loadAvail_carries s r sd).trans (.setSown _ r sd _))
    · exact plain_goto (loadAvail_carries s r sd) _ _
  · exact plain_ret (.setA s r sd _)
  · simp only [reserveLoadHts]
    split
    · exact plain_goto (.refl s) _ _
    · exact plain_goto (.updLat s fun l => { l with oh := loOf (s.side r sd).a }) _ _
  · exact reserveAvail_plain r sd _ s
  · unfold reserveCasHts
    split
    · exact plain_ret (.setA s r sd _)
    · exact plain_goto (.refl s) _ _
  · exact plain_goto (.updLat s _) _ _
  · unfold reserveWaitRts
    split <;> exact plain_goto (.refl s) _ _
  · exact reserveAvail_plain r sd _ s
  · unfold reserveCasRts
    split
    · exact plain_ret (.setA s r sd _)
    · exact plain_goto (.refl s) _ _
  · exact plain_stop s _

theorem memWrite_carries {s t : State} {r : RingId} {a : Nat} {v : List Byte} (h : s.memWrite r a v = .ok t) :
    Carries s t := (State.memWrite_ok h).2 ▸ .setRing s r _

theorem copyIn_carries {s : State} {r : RingId} : ∀ {k : Nat} {t : State}, s.copyIn r k = .ok t → Carries s t
  | 0, t, h => by cases h; exact .refl s
  | k + 1, t, h => by
    unfold State.copyIn at h
    split at h
    · cases h
    · rename_i s1 h1
      exact (copyIn_carries h1).trans (memWrite_carries h)

theorem copyLine_plain (r : RingId) (sd : Side) (s : State) : (copyLine r sd s).Plain s := by
  unfold copyLine
  split
  · cases h : s.copyIn r s.lat.k.toNat with
    | error e => exact plain_stop s e
    | ok t => exact plain_ret (copyIn_carries h)
  · cases h : s.copyOut r s.lat.k.toNat with
    | error e => exact plain_stop s e
    | ok es => exact plain_ret (.updLat s _)

theorem publishLine_plain (r : RingId) (sd : Side) (l : Label) (s : State) : (publishLine r sd l s).Plain s := by
  unfold publishLine
  split
  · unfold publishTurn
    split <;> exact plain_goto (.refl s) _ _
  · exact plain_ret (.storeTail s r sd _)
  · exact plain_ret ((Carries.storeTail s r sd _).trans (.setSown _ r sd _))
  · exact plain_ret (.setA s r sd _)
  · exact plain_goto (.updLat s _) _ _
  · exact plain_goto (.updLat s _) _ _
  · unfold publishCasRts
    split
    · exact plain_ret (.setB s r sd _)
    · exact plain_goto (.refl s) _ _
  · exact plain_stop s _

theorem cancelLine_plain (r : RingId) (sd : Side) (l : Label) (s : State) : (cancelLine r sd l s).Plain s := by
  unfold cancelLine
  split
  · exact plain_ret (.setA s r sd _)
  · exact plain_stop s _

theorem ringopReserved_plain (s : State) : (ringopReserved s).Plain s := by
  unfold ringopReserved
  split
  · exact plain_ret (.refl s)
  · exact plain_goto (.refl s) _ _

theorem countLine_plain (r : RingId) (l : Label) (s : State) : (countLine r l s).Plain s := by
  unfold countLine
  split
  · exact plain_goto (.updLat s _) _ _
  · exact plain_ret (.updLat s _)
  · exact plain_stop s _

theorem checkCall_plain (s : State) : (checkCall s).Plain s := plain_goto (.refl s) _ _

theorem checkFin_plain (s : State) : (checkFin s).Plain s := by
  unfold checkFin
  split
  · exact plain_goto (.refl s) _ _
  · exact plain_ret (.updLat s _)

theorem checkNext_plain (s : State) : (checkNext s).Plain s := by
  unfold checkNext
  split
  · have h : Carries s (s.updLat fun l => { l with wi := l.wi + 1#32 }) := .updLat s _
    simp only
    split
    · exact Flow.plain_trans h (checkFin_plain _)
    · exact plain_goto h _ _
  · exact plain_goto (.refl s) _ _

/-- `CHECKSEQ` writes a register at `V4` only. -/
theorem checkLine_plain {l : Label} (h : l ≠ .v4) (s : State) : (checkLine l s).Plain s := by
  unfold checkLine
  split
  · unfold checkFast
    split
    · exact plain_ret (.updLat s _)
    · exact plain_goto (.updLat s _) _ _
  · exact Flow.plain_trans (.updLat s _) (checkNext_plain _)
  · simp only [checkThread]
    split
    · split
      · exact plain_goto (.refl s) _ _
      · exact plain_ret (.updLat s _)
    · exact Flow.plain_trans (.updLat s _) (checkNext_plain _)
  · exact absurd rfl h
  · exact plain_stop s _

theorem reserveCall_plain (r : RingId) (sd : Side) (n : U32) (beh : Beh) (s : State) : (reserveCall r sd n beh s).Plain s :=
  plain_goto (.updLat s _) _ _

theorem reclaimLoop_plain (s : State) : (reclaimLoop s).Plain s := by
  unfold reclaimLoop
  split
  · exact plain_ret (.updLat s _)
  · exact Flow.plain_within (reserveCall_plain _ _ _ _ s) fun u => plain_ret (.refl u)

theorem reclaimCall_plain (lim : Limit) (s : State) : (reclaimCall lim s).Plain s :=
  Flow.plain_trans (.updLat s _) (reclaimLoop_plain _)

theorem reclaimReserved_plain (s : State) : (reclaimReserved s).Plain s := by
  unfold reclaimReserved
  split
  · exact plain_ret (.updLat s _)
  · exact plain_goto (.refl s) _ _

theorem reclaimRead_plain (s : State) : (reclaimRead s).Plain s := by
  unfold reclaimRead
  cases s.memRead .defer (addrOf s.cfg .defer s.lat.oh) (esize s.cfg .defer) with
  | error e => exact plain_stop s e
  | ok e => exact Flow.plain_within (Flow.plain_trans (.updLat s _) (checkCall_plain _)) fun u => plain_ret (.refl u)

theorem reclaimChecked_plain (s : State) : (reclaimChecked s).Plain s := by
  unfold reclaimChecked
  split <;> exact plain_goto (.refl s) _ _

theorem emitFree_carries (s : State) (m : FreeMsg) : Carries s (s.emitFree m) :=
  ⟨⟨⟨rfl, rfl⟩, ⟨rfl, rfl, rfl, rfl⟩, ⟨rfl, rfl⟩⟩, rfl, id⟩

theorem reclaimFree_plain (s : State) : (reclaimFree s).Plain s :=
  Flow.plain_trans ((Carries.setA s _ _ _).trans ((emitFree_carries _ _).trans (.updLat _ _))) (reclaimLoop_plain _)

/-! ### What follows a sub-sequence writes no register -/

theorem dqEnqDone_plain (s : State) : (dqEnqDone s).Plain s := plain_respond _ _ _ s

theorem afterRingopOf_plain (i : Instr) (s : State) : (afterRingopOf i s).Plain s := by
  have hpushed : (dqEnqPushed s).Plain s :=
    Flow.plain_within (Flow.plain_trans (.updLat s _) (plain_goto (.refl _) _ _)) dqEnqDone_plain
  unfold afterRingopOf
  rcases ringopUse i with _ | ⟨_ | _, _ | _⟩
  · exact plain_stop s _
  · exact plain_respond _ _ _ s
  · exact fun g => Ends.respondWith g _ _ _ _
  · exact hpushed
  · exact hpushed

theorem afterCountOf_plain (i : Instr) (s : State) : (afterCountOf i s).Plain s := by
  cases i with
  | ringCount => exact plain_respond _ _ _ s
  | ringFree => exact plain_respond _ _ _ s
  | dqEnq =>
    change (dqEnqCounted s).Plain s
    unfold dqEnqCounted
    split
    · exact Flow.plain_within (reclaimCall_plain _ s) dqEnqDone_plain
    · exact dqEnqDone_plain s
  | _ => exact plain_stop s _

theorem afterCheckOf_plain {i : Instr} {k : State → Flow} (h : afterCheckOf i = some k) (s : State) : (k s).Plain s := by
  cases i <;> cases h <;> exact plain_respond _ _ _ s

theorem dqReclaimDone_plain (s : State) : (dqReclaimDone s).Plain s := plain_respond _ _ _ s

theorem dqDeletePassed_plain (s : State) : (dqDeletePassed s).Plain s := by
  unfold dqDeletePassed
  split
  · exact plain_respond _ _ _ s
  · exact plain_goto (.refl s) _ _

theorem afterReclaimOf_plain {i : Instr} {k : State → Flow} (h : afterReclaimOf i = some k) (s : State) :
    (k s).Plain s := by
  cases i <;> cases h
  · exact dqEnqDone_plain s
  · exact dqReclaimDone_plain s
  · exact dqDeletePassed_plain s

/-! ### What one step does to the registers -/

/-- From `u` to `t` no register is written, and at most one response is given, by a port that is idle then. -/
structure StepFrom (u t : State) : Prop where
  regs : SameRegs u t
  answers : t.port.rspch = u.port.rspch ∨ (t.phase = .idle ∧ ∃ x, t.port.rspch = u.port.rspch ++ [x])

/-- Everything a step of the command `i` can do to the registers outside the rings, by the line that does it. -/
inductive RegEffect (i : Instr) (s t : State) : Prop
  | same (h : StepFrom s t)
  /-- A token is issued (spec/42 rule R198). -/
  | token (hat : (i = .start ∧ s.phase = .busy .a1 []) ∨ (∃ tid, i = .sync tid ∧ s.phase = .busy .y1 []) ∨
      (i = .dqEnq ∧ s.phase = .busy .d1 [])) (hbelow : s.token.toNat < 2 ^ 64 - 1) (htok : t.lat.tok = s.token + 1#64)
      (h : StepFrom (s.setToken (s.token + 1#64)) t)
  /-- A fault is raised (spec/60 rule R254). -/
  | fault (f : FaultBit) (hat : (f = .single ∧ ∃ st, s.phase = .busy .s1 st) ∨
      (f = .tokwrap ∧ ∃ l ∈ [Label.a1, .y1, .d1], s.phase = .busy l [])) (h : StepFrom (s.setFault f) t)
      (ha : Answered s t .eFault 0#32 0#64 [])
  /-- A check sequence records what it has seen (spec/42 rule R204). -/
  | acked (st : List Seq) (hi : checkUse i = some st) (hat : s.phase = .busy .v4 st) (h : StepFrom (s.maxAcked s.lat.minc) t)
  | register (tid : U32) (hi : i = .thrReg tid) (hat : s.phase = .busy .g1 []) (hr : s.regd tid.toNat = false)
      (h : StepFrom (((s.setCnt tid.toNat s.token).setRegd tid.toNat).setNumThreads (s.numThreads + 1#32)) t)
  | unregister (tid : U32) (hi : i = .thrUnreg tid) (hat : s.phase = .busy .u1 []) (hr : s.regd tid.toNat = true)
      (h : StepFrom ((s.clearRegd tid.toNat).setNumThreads (s.numThreads - 1#32)) t)
  /-- A counter records the token that the port has loaded (spec/42 rules R194, R197). -/
  | report (tid : U32) (hat : (i = .quiescent tid ∧ s.phase = .busy .q2 []) ∨ (i = .sync tid ∧ s.phase = .busy .y3 []))
      (h : StepFrom (s.setCnt tid.toNat s.lat.qt) t)
  | lock (tid : U32) (v : U32)
    (hat : (i = .rdLock tid ∧ s.phase = .busy .l1 []) ∨ (i = .rdUnlock tid ∧ s.phase = .busy .l2 []))
      (h : StepFrom (s.setLock tid.toNat v) t)
  | kill (hi : i = .dqDelete) (hat : s.phase = .busy .z1 []) (h : StepFrom s.killDq t)

theorem StepFrom.setPhase {s u : State} (h : Carries s u) (ph : Phase) : StepFrom s (u.setPhase ph) where
  regs := h.regs.trans ⟨⟨rfl, rfl⟩, ⟨rfl, rfl, rfl, rfl⟩, ⟨rfl, rfl⟩⟩
  answers := by
    left
    rw [← h.answers]
    rcases State.updPort_port_any u fun q => { q with phase := ph } with h | h <;> simp [State.setPhase, h]

/-- The step of a line that writes no register. -/
theorem Flow.Plain.stepFrom {s t : State} {x : Flow} (h : x.Plain s) (g : s.granted) (ht : x.outcome = .next t) :
    StepFrom s t := by
  rcases Flow.outcome_next ht with ⟨l, st, u, rfl, rfl⟩ | rfl
  · exact .setPhase (h g) _
  · exact ⟨(h g).regs, .inr ⟨(h g).idle, (h g).answers⟩⟩

/-- The step of a line that raises a fault. -/
theorem raiseFault_stepFrom {f : FaultBit} {s t : State} (g : s.granted) (h : (raiseFault f s).outcome = .next t) :
    StepFrom (s.setFault f) t ∧ Answered s t .eFault 0#32 0#64 [] := by
  cases h
  have hg : (s.setFault f).granted := g
  have hp : (s.setFault f).port = s.port := rfl
  refine ⟨Flow.Plain.stepFrom (plain_respond .eFault 0#32 0#64 (s.setFault f)) hg rfl, ?_⟩
  simp [Answered, State.phase, State.respond, State.respondWith_port _ _ _ _ _ hg, hp]

/-! ### The one case analysis over all commands -/

theorem popCmd_carries (s : State) : Carries s s.popCmd where
  regs := ⟨⟨rfl, rfl⟩, ⟨rfl, rfl, rfl, rfl⟩, ⟨rfl, rfl⟩⟩
  answers := by rcases State.updPort_port_any s fun q => { q with cmdch := q.cmdch.tail } with h | h <;> simp [State.popCmd, h]
  granted := fun h => by simpa [State.granted] using h

theorem enterState_carries (i : Instr) (u : State) : Carries u (enterState i u) := by
  unfold enterState
  split
  · exact .updLat u _
  · split
    · exact .updLat u _
    · exact .refl u

theorem accept_plain (i : Instr) (s : State) :
    (accept (unitOf i) (operandErrorOf s i) (zeroCountOf i) (enterOf i) s).Plain s := by
  unfold accept
  split
  · exact plain_stop s _
  · split
    · exact Flow.plain_trans (popCmd_carries s) (plain_respond _ _ _ _)
    · split
      · exact Flow.plain_trans (popCmd_carries s) (plain_respond _ _ _ _)
      · split
        · exact Flow.plain_trans (popCmd_carries s) (plain_respond _ _ _ _)
        · exact plain_goto ((popCmd_carries s).trans ((Carries.updLat _ _).trans (enterState_carries i _))) _ _

/-- `S1` on a side that is owned. -/
theorem reserveLine_s1_owned {r : RingId} {sd : Side} {s : State} (h : (s.side r sd).sown.valid = true) :
    reserveLine r sd .s1 s = raiseFault .single s := if_pos h

/-- A line of a `RINGOP` raises `F_SINGLE` or writes no register. -/
theorem ringopLine_raises_or_plain (r : RingId) (sd : Side) (l : Label) (st : List Seq) (s : State) :
    (l = .s1 ∧ ringopLine r sd l st s = raiseFault .single s) ∨ (ringopLine r sd l st s).Plain s := by
  by_cases h : l = .s1 ∧ st = [.reserve] ∧ (s.side r sd).sown.valid = true
  · obtain ⟨rfl, rfl, hv⟩ := h
    left
    rw [ringopLine, reserveLine_s1_owned hv]
    exact ⟨rfl, rfl⟩
  · right
    unfold ringopLine
    split
    · refine Flow.plain_within (reserveLine_plain r sd l s fun hl => ?_) ringopReserved_plain
      simpa [hl] using h
    · exact Flow.plain_within (copyLine_plain r sd s) fun u => plain_goto (.refl u) _ _
    · exact Flow.plain_within (publishLine_plain r sd l s) fun u => plain_ret (.refl u)
    · exact plain_stop s _

/-- A line of a reclaim pass raises `F_SINGLE`, is `V4`, or writes no register. -/
theorem reclaimLine_raises_or_plain (l : Label) (st : List Seq) (s : State) :
    (l = .s1 ∧ reclaimLine l st s = raiseFault .single s) ∨ (l = .v4 ∧ st = [.checkseq]) ∨
      (reclaimLine l st s).Plain s := by
  by_cases h : l = .s1 ∧ st = [.reserve] ∧ (s.side .defer .cons).sown.valid = true
  · obtain ⟨rfl, rfl, hv⟩ := h
    left
    rw [reclaimLine, reserveLine_s1_owned hv]
    exact ⟨rfl, rfl⟩
  · by_cases hv : l = .v4 ∧ st = [.checkseq]
    · exact .inr (.inl hv)
    · right; right
      unfold reclaimLine
      split
      · refine Flow.plain_within (reserveLine_plain _ _ l s fun hl => ?_) reclaimReserved_plain
        simpa [hl] using h
      · exact reclaimRead_plain s
      · exact reclaimFree_plain s
      · exact Flow.plain_within (checkLine_plain (fun hl => hv ⟨hl, rfl⟩) s) reclaimChecked_plain
      · exact Flow.plain_within (cancelLine_plain _ _ l s) fun u => plain_ret (.updLat u _)
      · exact plain_stop s _

/-- Line `V4` within its caller. -/
theorem checkAck_plain (s : State) {k : State → Flow} (hk : ∀ u, (k u).Plain u) :
    ((checkLine .v4 s).within .checkseq k).Plain (s.maxAcked s.lat.minc) :=
  Flow.plain_within (plain_ret (.updLat _ _)) hk

/-- Registration, under one of its three outcomes. -/
theorem regLine_effect {tid : U32} {s t : State} (g : s.granted) (hat : s.phase = .busy .g1 [])
    (h : (regLine tid.toNat s).outcome = .next t) : RegEffect (.thrReg tid) s t := by
  unfold regLine at h
  split at h
  · exact .same ((answer_plain _ s).stepFrom g h)
  · rename_i hr
    split at h
    · exact .same ((answer_plain _ s).stepFrom g h)
    · exact .register tid rfl hat (by simpa using hr) ((answer_plain _ _).stepFrom g h)

theorem unregLine_effect {tid : U32} {s t : State} (g : s.granted) (hat : s.phase = .busy .u1 [])
    (h : (unregLine tid.toNat s).outcome = .next t) : RegEffect (.thrUnreg tid) s t := by
  unfold unregLine at h
  split at h
  · exact .same ((answer_plain _ s).stepFrom g h)
  · rename_i hr
    split at h
    · exact .same ((answer_plain _ s).stepFrom g h)
    · exact .unregister tid rfl hat (by simpa using hr) ((answer_plain _ _).stepFrom g h)

theorem quiescentProbe_plain (n : Nat) (s : State) : (quiescentProbe n s).Plain s := by
  simp only [quiescentProbe]
  have hc : Carries s (s.updLat fun l => { l with qt := s.token }) := .updLat s _
  split
  · exact Flow.plain_trans hc (answer_plain _ _)
  · split
    · exact Flow.plain_trans hc (answer_plain _ _)
    · exact plain_goto hc _ _

theorem syncCheck_plain (s : State) : (syncCheck s).Plain s :=
  Flow.plain_within (Flow.plain_trans (.updLat s _) (checkCall_plain _)) fun u => plain_respond _ _ _ u

theorem lockLine_effect {tid : U32} {s t : State} (g : s.granted) (hat : s.phase = .busy .l1 [])
    (h : (lockLine tid.toNat s).outcome = .next t) : RegEffect (.rdLock tid) s t := by
  unfold lockLine at h
  split at h
  · exact .same ((answer_plain _ s).stepFrom g h)
  · exact .lock tid _ (.inl ⟨rfl, hat⟩) ((answer_plain _ _).stepFrom g h)

theorem unlockLine_effect {tid : U32} {s t : State} (g : s.granted) (hat : s.phase = .busy .l2 [])
    (h : (unlockLine tid.toNat s).outcome = .next t) : RegEffect (.rdUnlock tid) s t := by
  unfold unlockLine at h
  split at h
  · exact .same ((answer_plain _ s).stepFrom g h)
  · exact .lock tid _ (.inr ⟨rfl, hat⟩) ((answer_plain _ _).stepFrom g h)

theorem csrLine_plain (reg : U32) (idx : U64) (s : State) : (csrLine reg idx s).Plain s := by
  unfold csrLine
  split
  · exact plain_respond _ _ _ s
  · exact plain_stop s _

/-- A line that writes no register, after an update of the granted port's latches. -/
theorem StepFrom.of_carries {s u t : State} (h : Carries s u) (k : StepFrom u t) : StepFrom s t :=
  ⟨h.regs.trans k.regs, h.answers ▸ k.answers⟩

theorem Carries.setToken {s u : State} (h : Carries s u) (v : U64) : Carries (s.setToken v) (u.setToken v) :=
  ⟨⟨⟨rfl, h.regs.tokens.2⟩, h.regs.threads, h.regs.flags⟩, h.answers, h.granted⟩

theorem Carries.setFault {s u : State} (h : Carries s u) (f : FaultBit) : Carries (s.setFault f) (u.setFault f) :=
  ⟨⟨h.regs.tokens, h.regs.threads, ⟨h.regs.flags.1, congrArg (· ||| f.mask) h.regs.flags.2⟩⟩, h.answers, h.granted⟩

/-- The three lines that issue a token: after a change `s1` of the latches, `TKINC` and then a line that keeps `L.TOK`. -/
theorem tkinc_effect {i : Instr} {s s1 t : State} {k : State → Flow} {l : Label} (g : s.granted)
    (hat : (i = .start ∧ l = .a1) ∨ (∃ tid, i = .sync tid ∧ l = .y1) ∨ (i = .dqEnq ∧ l = .d1))
    (hp : s.phase = .busy l []) (hc : Carries s s1) (hch : s1.port.cmdch = s.port.cmdch) (hk : ∀ u, (k u).Plain u)
    (htok : ∀ u t, u.granted → (k u).outcome = .next t → t.lat.tok = u.lat.tok) (h : (tkinc s1 k).outcome = .next t) :
    RegEffect i s t := by
  have g1 := hc.granted g
  by_cases hlast : s1.token.toNat = 2 ^ 64 - 1
  · rw [tkinc_last hlast] at h
    obtain ⟨hs, ha⟩ := raiseFault_stepFrom g1 h
    refine .fault .tokwrap (.inr ⟨rfl, l, ?_, hp⟩) (.of_carries (hc.setFault _) hs) ?_
    · rcases hat with ⟨-, rfl⟩ | ⟨_, -, rfl⟩ | ⟨-, rfl⟩ <;> decide
    · simpa only [Answered, hch, hc.answers] using ha
  · have hbelow : s1.token.toNat < 2 ^ 64 - 1 := by
      have := s1.token.isLt
      omega
    rw [tkinc_below hbelow] at h
    have hu : Carries (s1.setToken (s1.token + 1#64)) _ := .updLat _ fun l => { l with tok := s1.token + 1#64 }
    have gu := hu.granted g1
    have ht := StepFrom.of_carries hu ((hk _).stepFrom gu h)
    have htk : s1.token = s.token := hc.regs.tokens.1
    have hlat := htok _ t gu h
    rw [State.updLat_lat _ _ (show (s1.setToken (s1.token + 1#64)).granted from g1)] at hlat
    rw [htk] at hbelow hlat ht
    refine .token ?_ hbelow hlat (.of_carries (hc.setToken _) ht)
    rcases hat with ⟨hi, rfl⟩ | ⟨tid, hi, rfl⟩ | ⟨hi, rfl⟩
    · exact .inl ⟨hi, hp⟩
    · exact .inr (.inl ⟨tid, hi, hp⟩)
    · exact .inr (.inr ⟨hi, hp⟩)

theorem setPhase_lat {s : State} (g : s.granted) (ph : Phase) : (s.setPhase ph).lat = s.lat := by
  simp [State.lat, State.setPhase_port s ph g]

theorem respondWith_lat {s : State} (g : s.granted) (st : Status) (n : U32) (v : U64) (pl : List Element) :
    (s.respondWith st n v pl).lat = s.lat := by
  simp [State.lat, State.respondWith_port s st n v pl g]

theorem syncCheck_tok {u t : State} (g : u.granted) (h : (syncCheck u).outcome = .next t) : t.lat.tok = u.lat.tok := by
  cases h
  have gu := (Carries.updLat u fun l => { l with t := l.tok, wt := true }).granted g
  rw [setPhase_lat gu, State.updLat_lat u _ g]

theorem syncBegin_effect {tid : U32} {s t : State} (g : s.granted) (hat : s.phase = .busy .y1 [])
    (h : (syncBegin tid s).outcome = .next t) : RegEffect (.sync tid) s t := by
  simp only [syncBegin] at h
  generalize (decide (tid < s.cfg.maxThreads) && s.regd tid.toNat) = rdr at h
  have hc : Carries s (s.updLat fun l => { l with rdr := rdr }) := .updLat s _
  split at h
  · exact .same ((Flow.plain_trans hc (answer_plain _ _)).stepFrom g h)
  · refine tkinc_effect g (.inr (.inl ⟨tid, rfl, rfl⟩)) hat hc (by rw [State.updLat_port s _ g]) (fun u => ?_)
      (fun u t gu hu => ?_) h
    · split
      · exact plain_goto (.refl u) _ _
      · exact syncCheck_plain u
    · split at hu
      · cases hu
        exact congrArg Latches.tok (setPhase_lat gu _)
      · exact syncCheck_tok gu hu

theorem dqEnqBegin_effect {s t : State} (g : s.granted) (hat : s.phase = .busy .d1 [])
    (h : (dqEnqBegin s).outcome = .next t) : RegEffect .dqEnq s t := by
  unfold dqEnqBegin ifAlive at h
  split at h
  · refine tkinc_effect g (.inr (.inr ⟨rfl, rfl⟩)) hat (.refl s) rfl (fun u => ?_) (fun u t gu hu => ?_) h
    · exact Flow.plain_within (Flow.plain_within (Flow.plain_trans (.updLat u _) (reserveCall_plain _ _ _ _ _))
        fun v => plain_ret (.refl v)) dqEnqDone_plain
    · cases hu
      have g1 := (Carries.updLat u fun l => { l with
        src := Payload.ofBytes (entryBytes l.tok (l.src.elem u.cfg.dqEsize.toNat 0)) }).granted gu
      have g2 := (Carries.updLat _ fun l => { l with n := 1#32, beh := .exact }).granted g1
      rw [setPhase_lat g2, State.updLat_lat _ _ g1, State.updLat_lat u _ gu]
  · exact .same ((answer_plain _ s).stepFrom g h)

/-- A command's own line that its one label names. -/
theorem onlyAt_next {first l : Label} {x : Flow} {t : State} (h : (onlyAt first l x).outcome = .next t) :
    l = first ∧ x.outcome = .next t := by
  unfold onlyAt at h
  split at h
  · exact ⟨by assumption, h⟩
  · cases h

theorem ifAlive_plain {s : State} {k : State → Flow} (h : (k s).Plain s) : (ifAlive s k).Plain s := by
  unfold ifAlive
  split
  · exact h
  · exact answer_plain _ s

theorem ownLine_effect {i : Instr} {l : Label} {s t : State} (g : s.granted) (hp : s.phase = .busy l [])
    (h : (ownLine i l s).outcome = .next t) : RegEffect i s t := by
  cases i with
  | thrReg tid =>
    obtain ⟨rfl, h⟩ := onlyAt_next h
    exact regLine_effect g hp h
  | thrUnreg tid =>
    obtain ⟨rfl, h⟩ := onlyAt_next h
    exact unregLine_effect g hp h
  | quiescent tid =>
    simp only [ownLine] at h
    split at h
    · exact .same ((quiescentProbe_plain _ s).stepFrom g h)
    · obtain ⟨rfl, h⟩ := onlyAt_next h
      exact .report tid (.inl ⟨rfl, hp⟩) ((answer_plain _ _).stepFrom g h)
  | start =>
    obtain ⟨rfl, h⟩ := onlyAt_next h
    refine tkinc_effect g (.inl ⟨rfl, rfl⟩) hp (.refl s) rfl (fun u => plain_respond _ _ _ u) (fun u t gu hu => ?_) h
    cases hu
    exact congrArg Latches.tok (respondWith_lat gu _ _ _ _)
  | sync tid =>
    simp only [ownLine] at h
    split at h
    · rename_i hl
      subst hl
      exact syncBegin_effect g hp h
    · split at h
      · exact .same (Flow.Plain.stepFrom (plain_goto (.updLat s fun x => { x with qt := s.token }) _ _) g h)
      · obtain ⟨rfl, h⟩ := onlyAt_next h
        exact .report tid (.inr ⟨rfl, hp⟩) ((syncCheck_plain _).stepFrom g h)
  | rdLock tid =>
    obtain ⟨rfl, h⟩ := onlyAt_next h
    exact lockLine_effect g hp h
  | rdUnlock tid =>
    obtain ⟨rfl, h⟩ := onlyAt_next h
    exact unlockLine_effect g hp h
  | dqEnq =>
    obtain ⟨rfl, h⟩ := onlyAt_next h
    exact dqEnqBegin_effect g hp h
  | dqReclaim n =>
    obtain ⟨rfl, hr⟩ := onlyAt_next (x := ifAlive s fun t => (reclaimCall (.num n) t).within .reclaimseq dqReclaimDone) h
    exact .same ((ifAlive_plain (Flow.plain_within (reclaimCall_plain _ s) dqReclaimDone_plain)).stepFrom g hr)
  | dqDelete =>
    simp only [ownLine] at h
    split at h
    · exact .same ((ifAlive_plain (Flow.plain_within (reclaimCall_plain _ s) dqDeletePassed_plain)).stepFrom g h)
    · obtain ⟨rfl, h⟩ := onlyAt_next h
      exact .kill rfl hp ((plain_respond .ok s.lat.freed 0#64 s.killDq).stepFrom g h)
  | csrRd reg idx =>
    obtain ⟨rfl, h⟩ := onlyAt_next h
    exact .same ((csrLine_plain reg idx s).stepFrom g h)
  | _ => cases h

/-- The step of a line that raises `F_SINGLE`. -/
theorem RegEffect.single {i : Instr} {s t : State} {st : List Seq} (g : s.granted) (hp : s.phase = .busy .s1 st)
    (h : (raiseFault .single s).outcome = .next t) : RegEffect i s t := by
  obtain ⟨hs, ha⟩ := raiseFault_stepFrom g h
  exact .fault .single (.inl ⟨rfl, st, hp⟩) hs ha

theorem checkUse_of_afterCheckOf {i : Instr} {k : State → Flow} (h : afterCheckOf i = some k) :
    checkUse i = some [.checkseq] := by
  cases i <;> cases h <;> rfl

theorem checkUse_of_afterReclaimOf {i : Instr} {k : State → Flow} (h : afterReclaimOf i = some k) :
    checkUse i = some [.reclaimseq, .checkseq] := by
  cases i <;> cases h <;> rfl

theorem lineFlow_effect {i : Instr} {l : Label} {st : List Seq} {s t : State} (g : s.granted)
    (hp : s.phase = .busy l st) (h : (lineFlow i l st s).outcome = .next t) : RegEffect i s t := by
  unfold lineFlow at h
  split at h
  · exact ownLine_effect g hp h
  · split at h
    · rename_i r sd _
      rcases ringopLine_raises_or_plain r sd l _ s with ⟨rfl, hr⟩ | hpl
      · rw [hr] at h
        exact .single g hp h
      · exact .same ((Flow.plain_within hpl (afterRingopOf_plain i)).stepFrom g h)
    · cases h
  · split at h
    · exact .same ((Flow.plain_within (countLine_plain _ l s) (afterCountOf_plain i)).stepFrom g h)
    · cases h
  · split at h
    · rename_i k hk
      by_cases hv : l = .v4
      · subst hv
        exact .acked _ (checkUse_of_afterCheckOf hk) hp ((checkAck_plain s (afterCheckOf_plain hk)).stepFrom g h)
      · exact .same ((Flow.plain_within (checkLine_plain hv s) (afterCheckOf_plain hk)).stepFrom g h)
    · cases h
  · split at h
    · rename_i inner _ k hk
      rcases reclaimLine_raises_or_plain l inner s with ⟨rfl, hr⟩ | ⟨rfl, rfl⟩ | hpl
      · rw [hr] at h
        exact .single g hp h
      · exact .acked _ (checkUse_of_afterReclaimOf hk) hp
          ((Flow.plain_within (checkAck_plain s reclaimChecked_plain) (afterReclaimOf_plain hk)).stepFrom g h)
      · exact .same ((Flow.plain_within hpl (afterReclaimOf_plain hk)).stepFrom g h)
    · cases h
  · cases h

/-- Everything a step of a command can do to the registers outside the rings and to the response channel. -/
theorem exec_regEffect {i : Instr} {s t : State} (h : exec i s = .next t) : RegEffect i s t := by
  have g := granted_of_exec h
  cases hp : s.phase with
  | idle =>
    rw [exec_idle g hp] at h
    exact .same ((accept_plain i s).stepFrom g h)
  | busy l st =>
    rw [exec_busy ⟨g, hp⟩] at h
    exact lineFlow_effect g hp h

end Sys2Proof.Machine
end

section
/-! PROOFS. What one step of a command does to its port and to the registers (rules R20, R27 to R38): the statements about
who writes what, read off `KeepsOthers` and `RegEffect`. -/

namespace Sys2Proof.Machine

/-! ### The acceptance step -/

/-- The two outcomes of an acceptance step (spec/30 rule R92). -/
inductive Accepted (i : Instr) (s : State) (m : Message) : State → Prop
  | answered (st : Status) : Accepted i s m (s.popCmd.respond st 0#32 0#64)
  | entered (hu : s.unitOk (unitOf i) = true) (ho : operandErrorOf s i = false) :
    Accepted i s m ((enterState i (s.popCmd.latch m)).setPhase (.busy (firstLine s.cfg i).1 (firstLine s.cfg i).2))

theorem exec_accepts {i : Instr} {s t : State} (hp : s.phase = .idle) (h : exec i s = .next t) :
    ∃ m rest, s.port.cmdch = m :: rest ∧ Accepted i s m t := by
  rw [exec_idle (granted_of_exec h) hp] at h
  unfold accept at h
  split at h
  · cases h
  · rename_i m rest hm
    refine ⟨m, rest, hm, ?_⟩
    split at h
    · cases h
      exact .answered _
    · split at h
      · cases h
        exact .answered _
      · split at h
        · cases h
          exact .answered _
        · rename_i hu ho _
          cases h
          exact .entered (by simpa using hu) (by simpa using ho)

theorem enterState_keepsOthers (i : Instr) (u : State) : KeepsOthers u (enterState i u) := by
  unfold enterState
  split
  · exact .updLat u _ rfl
  · split
    · exact .updLat u _ rfl
    · exact .refl u

theorem OnlyOwnPort.trans {s t u : State} (h : OnlyOwnPort s t) (k : OnlyOwnPort t u) : OnlyOwnPort s u := by
  obtain ⟨h1, h2, h3, h4, h5, h6⟩ := h
  obtain ⟨k1, k2, k3, k4, k5, k6⟩ := k
  exact ⟨k1.trans h1, k2.trans h2, k3.trans h3, k4.trans h4, k5.trans h5,
    fun p hp => (k6 p (h2 ▸ hp)).trans (h6 p hp)⟩

theorem OnlyOwnPort.updPort (s : State) (f : Port → Port) : OnlyOwnPort s (s.updPort f) :=
  onlyOwnPort_of_modify rfl rfl rfl rfl rfl

/-- An acceptance step, seen from the state in which the message is latched. -/
theorem Accepted.keepsOthers {i : Instr} {s t : State} {m : Message} (h : Accepted i s m t) :
    KeepsOthers s.popCmd t ∨ KeepsOthers (s.popCmd.latch m) t := by
  cases h with
  | answered st => exact .inl (.respond _ st _ _)
  | entered _ _ => exact .inr ((enterState_keepsOthers i _).trans (.setPhase _ _))

theorem Accepted.onlyOwnPort {i : Instr} {s t : State} {m : Message} (h : Accepted i s m t) : OnlyOwnPort s t := by
  have hpop : OnlyOwnPort s s.popCmd := .updPort s _
  rcases h.keepsOthers with hk | hk
  · exact hpop.trans hk.onlyOwnPort
  · exact (hpop.trans (.updPort _ _)).trans hk.onlyOwnPort

theorem Accepted.channel {i : Instr} {s t : State} {m : Message} (g : s.granted) (h : Accepted i s m t) :
    t.port.cmdch = s.port.cmdch.tail := by
  have hpop : s.popCmd.granted := by simpa [State.granted] using g
  rcases h.keepsOthers with hk | hk
  · rw [hk.channel, State.popCmd_port s g]
  · rw [hk.channel, State.latch_port _ m hpop, State.popCmd_port s g]

/-! ### The labelled lines -/

theorem afterRingopOf_keepsOthers (i : Instr) (s : State) : (afterRingopOf i s).KeepsOthers s := by
  unfold afterRingopOf
  rcases ringopUse i with _ | ⟨_ | _, _ | _⟩
  · trivial
  · exact KeepsOthers.respond s _ _ _
  · exact KeepsOthers.respondWith s _ _ _ _
  all_goals exact KeepsOthers.updLat s (fun l => { l with kq := decide (l.k ≠ 0#32) }) rfl

theorem dqEnqDone_keepsOthers (s : State) : (dqEnqDone s).KeepsOthers s := KeepsOthers.respond s _ _ _

theorem afterCountOf_keepsOthers (i : Instr) (s : State) : (afterCountOf i s).KeepsOthers s := by
  cases i with
  | ringCount => exact KeepsOthers.respond s _ _ _
  | ringFree => exact KeepsOthers.respond s _ _ _
  | dqEnq =>
    change (dqEnqCounted s).KeepsOthers s
    unfold dqEnqCounted
    split
    · exact Flow.keepsOthers_within (reclaimCall_keepsOthers _ s) dqEnqDone_keepsOthers
    · exact dqEnqDone_keepsOthers s
  | _ => trivial

theorem afterCheckOf_keepsOthers {i : Instr} {k : State → Flow} (h : afterCheckOf i = some k) (s : State) :
    (k s).KeepsOthers s := by
  cases i <;> cases h <;> exact KeepsOthers.respond s _ _ _

theorem afterReclaimOf_keepsOthers {i : Instr} {k : State → Flow} (h : afterReclaimOf i = some k) (s : State) :
    (k s).KeepsOthers s := by
  cases i <;> cases h
  · exact dqEnqDone_keepsOthers s
  · exact KeepsOthers.respond s _ _ _
  · unfold dqDeletePassed
    split
    · exact KeepsOthers.respond s _ _ _
    · exact KeepsOthers.refl s

theorem onlyAt_keepsOthers {first l : Label} {x : Flow} {s : State} (h : x.KeepsOthers s) :
    (onlyAt first l x).KeepsOthers s := by
  unfold onlyAt
  split
  · exact h
  · trivial

theorem ifAlive_keepsOthers {s : State} {k : State → Flow} (h : (k s).KeepsOthers s) : (ifAlive s k).KeepsOthers s := by
  unfold ifAlive
  split
  · exact h
  · exact answer_keepsOthers _ s

/-- A change of shared state followed by an answer. -/
theorem answer_keepsOthers_of_ports {s u : State} (st : Status) (h1 : u.cfg = s.cfg) (h2 : u.cur = s.cur)
    (h3 : u.sched = s.sched) (h4 : u.tick = s.tick) (h5 : u.ports = s.ports) : (answer st u).KeepsOthers s :=
  Flow.keepsOthers_trans (.ofPorts h1 h2 h3 h4 h5) (answer_keepsOthers st u)

theorem syncCheck_keepsOthers (s : State) : (syncCheck s).KeepsOthers s :=
  KeepsOthers.updLat s (fun l => { l with t := l.tok, wt := true }) rfl

theorem syncBegin_keepsOthers (tid : U32) (s : State) : (syncBegin tid s).KeepsOthers s := by
  simp only [syncBegin]
  generalize (decide (tid < s.cfg.maxThreads) && s.regd tid.toNat) = rdr
  refine Flow.keepsOthers_trans (KeepsOthers.updLat s (fun l => { l with rdr := rdr }) rfl) ?_
  split
  · exact answer_keepsOthers _ _
  · refine tkinc_keepsOthers fun u => ?_
    split
    · exact KeepsOthers.refl u
    · exact syncCheck_keepsOthers u

theorem dqEnqBegin_keepsOthers (s : State) : (dqEnqBegin s).KeepsOthers s :=
  ifAlive_keepsOthers (tkinc_keepsOthers fun u => KeepsOthers.trans
    (KeepsOthers.updLat u (fun l => { l with
      src := Payload.ofBytes (entryBytes l.tok (l.src.elem u.cfg.dqEsize.toNat 0)) }) rfl)
    (KeepsOthers.updLat _ (fun l => { l with n := 1#32, beh := .exact }) rfl))

theorem quiescentProbe_keepsOthers (n : Nat) (s : State) : (quiescentProbe n s).KeepsOthers s := by
  simp only [quiescentProbe]
  refine Flow.keepsOthers_trans (KeepsOthers.updLat s (fun l => { l with qt := s.token }) rfl) ?_
  split
  · exact answer_keepsOthers _ _
  · split
    · exact answer_keepsOthers _ _
    · exact KeepsOthers.refl _

theorem ownLine_keepsOthers (i : Instr) (l : Label) (s : State) : (ownLine i l s).KeepsOthers s := by
  cases i with
  | thrReg tid =>
    refine onlyAt_keepsOthers ?_
    unfold regLine
    split
    · exact answer_keepsOthers _ s
    · split
      · exact answer_keepsOthers _ s
      · exact answer_keepsOthers_of_ports _ rfl rfl rfl rfl rfl
  | thrUnreg tid =>
    refine onlyAt_keepsOthers ?_
    unfold unregLine
    split
    · exact answer_keepsOthers _ s
    · split
      · exact answer_keepsOthers _ s
      · exact answer_keepsOthers_of_ports _ rfl rfl rfl rfl rfl
  | quiescent tid =>
    simp only [ownLine]
    split
    · exact quiescentProbe_keepsOthers _ s
    · exact onlyAt_keepsOthers (answer_keepsOthers_of_ports _ rfl rfl rfl rfl rfl)
  | start => exact onlyAt_keepsOthers (tkinc_keepsOthers fun u => KeepsOthers.respond u _ _ _)
  | sync tid =>
    simp only [ownLine]
    split
    · exact syncBegin_keepsOthers tid s
    · split
      · exact KeepsOthers.updLat s (fun x => { x with qt := s.token }) rfl
      · exact onlyAt_keepsOthers (Flow.keepsOthers_trans (t := s.setCnt tid.toNat s.lat.qt)
          (.ofPorts rfl rfl rfl rfl rfl) (syncCheck_keepsOthers _))
  | rdLock tid =>
    refine onlyAt_keepsOthers ?_
    unfold lockLine
    split
    · exact answer_keepsOthers _ s
    · exact answer_keepsOthers_of_ports _ rfl rfl rfl rfl rfl
  | rdUnlock tid =>
    refine onlyAt_keepsOthers ?_
    unfold unlockLine
    split
    · exact answer_keepsOthers _ s
    · exact answer_keepsOthers_of_ports _ rfl rfl rfl rfl rfl
  | dqEnq => exact onlyAt_keepsOthers (dqEnqBegin_keepsOthers s)
  | dqReclaim n =>
    exact onlyAt_keepsOthers (ifAlive_keepsOthers
      (Flow.keepsOthers_within (reclaimCall_keepsOthers _ s) fun u => KeepsOthers.respond u _ _ _))
  | dqDelete =>
    simp only [ownLine]
    split
    · exact ifAlive_keepsOthers (Flow.keepsOthers_within (reclaimCall_keepsOthers _ s)
        (afterReclaimOf_keepsOthers (i := .dqDelete) rfl))
    · exact onlyAt_keepsOthers (Flow.keepsOthers_trans (s := s) (t := s.killDq) (x := .ended _)
        (.ofPorts rfl rfl rfl rfl rfl) (KeepsOthers.respond _ _ _ _))
  | csrRd reg idx =>
    refine onlyAt_keepsOthers ?_
    unfold csrLine
    split
    · exact KeepsOthers.respond s _ _ _
    · trivial
  | _ => trivial

/-- A labelled line of any command touches no other port, no configuration, and neither its port's command nor its command
channel. -/
theorem lineFlow_keepsOthers (i : Instr) (l : Label) (st : List Seq) (s : State) : (lineFlow i l st s).KeepsOthers s := by
  unfold lineFlow
  split
  · exact ownLine_keepsOthers i l s
  · split
    · exact Flow.keepsOthers_within (ringopLine_keepsOthers _ _ _ _ s) (afterRingopOf_keepsOthers i)
    · trivial
  · split
    · exact Flow.keepsOthers_within (countLine_keepsOthers _ _ s) (afterCountOf_keepsOthers i)
    · trivial
  · split
    · rename_i hk
      exact Flow.keepsOthers_within (checkLine_keepsOthers _ s) (afterCheckOf_keepsOthers hk)
    · trivial
  · split
    · rename_i hk
      exact Flow.keepsOthers_within (reclaimLine_keepsOthers _ _ s) (afterReclaimOf_keepsOthers hk)
    · trivial
  · trivial

theorem Flow.KeepsOthers.outcome {s t : State} {x : Flow} (h : x.KeepsOthers s) (ht : x.outcome = .next t) :
    Machine.KeepsOthers s t := by
  rcases Flow.outcome_next ht with ⟨l, st, u, rfl, rfl⟩ | rfl
  · exact Machine.KeepsOthers.trans h (.setPhase u _)
  · exact h

theorem exec_busy_keepsOthers {i : Instr} {s t : State} (hp : s.phase ≠ .idle) (h : exec i s = .next t) :
    KeepsOthers s t := by
  cases hph : s.phase with
  | idle => exact absurd hph hp
  | busy l st =>
    rw [exec_busy ⟨granted_of_exec h, hph⟩] at h
    exact (lineFlow_keepsOthers i l st s).outcome h

theorem exec_onlyOwnPort {i : Instr} {s t : State} (h : exec i s = .next t) : OnlyOwnPort s t := by
  by_cases hp : s.phase = .idle
  · obtain ⟨m, rest, -, ha⟩ := exec_accepts hp h
    exact ha.onlyOwnPort
  · exact (exec_busy_keepsOthers hp h).onlyOwnPort

/-- Of the update that a step makes, the responses are those of `s`. -/
theorem RegEffect.answers {i : Instr} {s t : State} (h : RegEffect i s t) :
    t.port.rspch = s.port.rspch ∨ (t.phase = .idle ∧ ∃ x, t.port.rspch = s.port.rspch ++ [x]) := by
  cases h with
  | same h => exact h.answers
  | token _ _ _ h => exact h.answers
  | fault _ _ h _ => exact h.answers
  | acked _ _ _ h => exact h.answers
  | register _ _ _ _ h => exact h.answers
  | unregister _ _ _ _ h => exact h.answers
  | report _ _ h => exact h.answers
  | lock _ _ _ h => exact h.answers
  | kill _ _ h => exact h.answers

/-- Settles O41: the frame of the labelled lines, and of the acceptance step. -/
theorem ownPortOnly : Obligations.OwnPortOnly := by
  intro i s t h
  refine ⟨exec_onlyOwnPort h, fun hp => ?_, fun hp => ?_, (exec_regEffect h).answers⟩
  · have hk := exec_busy_keepsOthers hp h
    exact ⟨hk.channel, hk.command⟩
  · obtain ⟨m, rest, hm, ha⟩ := exec_accepts hp h
    exact ⟨m, by rw [ha.channel (granted_of_exec h), hm]; rfl⟩

/-! ### Who writes the registers -/

/-- Settles O42: only `TKINC` changes `TOKEN`, only `V4` changes `ACKED_TOKEN`. -/
theorem tokenWriters : Obligations.TokenWriters := by
  intro i s t h
  cases exec_regEffect h with
  | token hat hbelow htok h =>
    have ht : t.token = s.token + 1#64 := h.regs.tokens.1
    refine ⟨fun _ => ⟨?_, htok.trans ht.symm, hat⟩, fun hne => absurd h.regs.tokens.2 hne⟩
    rw [ht, BitVec.toNat_add, show (1#64).toNat = 1 from rfl]
    omega
  | acked st hi hat h =>
    refine ⟨fun hne => absurd h.regs.tokens.1 hne, fun hne => ?_⟩
    have ha : t.acked = if s.acked < s.lat.minc then s.lat.minc else s.acked := h.regs.tokens.2
    split at ha
    · exact ⟨ha, ha ▸ ‹_›, st, hi, hat⟩
    · exact absurd ha hne
  | same h | fault _ _ h _ | register _ _ _ _ h | unregister _ _ _ _ h | report _ _ h | lock _ _ _ h | kill _ _ h =>
    exact ⟨fun hne => absurd h.regs.tokens.1 hne, fun hne => absurd h.regs.tokens.2 hne⟩

/-- A sticky bit is never cleared. -/
theorem and_or_self (x y : U64) : x &&& (x ||| y) = x := by
  ext i
  simp
  grind

/-- Settles O43: only `Z1` changes `STATUS`, only a raised fault changes `FAULT`. -/
theorem flagWriters : Obligations.FlagWriters := by
  intro i s t h
  cases exec_regEffect h with
  | fault f hat h ha =>
    have hf : t.fault = s.fault ||| f.mask := h.regs.flags.2
    refine ⟨.inl h.regs.flags.1, .inr ⟨ha, ?_⟩, by rw [hf, and_or_self]⟩
    rcases hat with ⟨rfl, hst⟩ | ⟨rfl, hl⟩
    · exact .inl ⟨hf, hst⟩
    · exact .inr ⟨hf, hl⟩
  | kill hi hat h =>
    have hf : t.fault = s.fault := h.regs.flags.2
    exact ⟨.inr ⟨hi, hat, h.regs.flags.1⟩, .inl hf, by rw [hf, BitVec.and_self]⟩
  | same h | token _ _ _ h | acked _ _ _ h | register _ _ _ _ h | unregister _ _ _ _ h | report _ _ h | lock _ _ _ h =>
    have hf : t.fault = s.fault := h.regs.flags.2
    exact ⟨.inl h.regs.flags.1, .inl hf, by rw [hf, BitVec.and_self]⟩

/-- A store to a counter changes no other one. -/
theorem cntOf_of_set {s t : State} {k : Nat} {v : U64} (h : t.cnt = s.cnt.set k v) {j : Nat} (hj : j ≠ k) :
    t.cntOf j = s.cntOf j := by
  simp [State.cntOf, h, List.getD_eq_getElem?_getD, hj.symm]

theorem lockOf_of_set {s t : State} {k : Nat} {v : U32} (h : t.lockcnt = s.lockcnt.set k v) {j : Nat} (hj : j ≠ k) :
    t.lockOf j = s.lockOf j := by
  simp [State.lockOf, h, List.getD_eq_getElem?_getD, hj.symm]

/-- Settles O44: the five lines that write a thread register, and which of its entries. -/
theorem threadWriters : Obligations.ThreadWriters := by
  intro i s t h
  cases exec_regEffect h with
  | register tid hi hat _ h =>
    obtain ⟨-, -, hcnt, hlock⟩ := h.regs.threads
    exact ⟨fun _ => ⟨tid, .inl ⟨hi, hat⟩⟩, fun _ => ⟨tid, .inl ⟨hi, hat⟩, fun j hj => cntOf_of_set hcnt hj⟩,
      fun hne => absurd hlock hne⟩
  | unregister tid hi hat _ h =>
    obtain ⟨-, -, hcnt, hlock⟩ := h.regs.threads
    exact ⟨fun _ => ⟨tid, .inr ⟨hi, hat⟩⟩, fun hne => absurd hcnt hne, fun hne => absurd hlock hne⟩
  | report tid hat h =>
    obtain ⟨hbits, hnum, hcnt, hlock⟩ := h.regs.threads
    exact ⟨fun hne => absurd hne (by simp [hbits, hnum]),
      fun _ => ⟨tid, .inr hat, fun j hj => cntOf_of_set hcnt hj⟩, fun hne => absurd hlock hne⟩
  | lock tid v hat h =>
    obtain ⟨hbits, hnum, hcnt, hlock⟩ := h.regs.threads
    exact ⟨fun hne => absurd hne (by simp [hbits, hnum]), fun hne => absurd hcnt hne,
      fun _ => ⟨tid, hat, fun j hj => lockOf_of_set hlock hj⟩⟩
  | same h | token _ _ _ h | fault _ _ h _ | acked _ _ _ h | kill _ _ h =>
    obtain ⟨hbits, hnum, hcnt, hlock⟩ := h.regs.threads
    exact ⟨fun hne => absurd hne (by simp [hbits, hnum]), fun hne => absurd hcnt hne, fun hne => absurd hlock hne⟩

end Sys2Proof.Machine
end

section
/-! PROOFS. The copies (spec/40 rule R130) and the reads of ring storage (spec/20 rule R61): when they go through, and that
the one way they can stop is the read of a slot that holds no value (log entry 5). -/

namespace Sys2Proof.Machine

/-- The read of a slot that holds no value. -/
theorem memRead_slot_none {s : State} {r : RingId} (h : cap s.cfg r ≠ 0#32) {x : U32}
    (hx : (s.ring r).mem.readBytes (addrOf s.cfg r x) (esize s.cfg r) = none) :
    s.memRead r (addrOf s.cfg r x) (esize s.cfg r) = .error .unwrittenSlot := by
  rw [State.memRead, if_pos (addrOf_within s.cfg r x h), hx]

theorem memRead_slot_some {s : State} {r : RingId} (h : cap s.cfg r ≠ 0#32) {x : U32}
    (hx : (s.ring r).mem.readBytes (addrOf s.cfg r x) (esize s.cfg r) ≠ none) :
    ∃ bs, s.memRead r (addrOf s.cfg r x) (esize s.cfg r) = .ok bs := by
  obtain ⟨bs, hbs⟩ := Option.ne_none_iff_exists'.mp hx
  exact ⟨bs, by rw [State.memRead, if_pos (addrOf_within s.cfg r x h), hbs]⟩

/-- A copy out of slots that all hold a value. -/
theorem copyOut_ok {s : State} {r : RingId} (h : cap s.cfg r ≠ 0#32) : ∀ k : Nat,
    (∀ j, j < k →
      (s.ring r).mem.readBytes (addrOf s.cfg r (s.lat.oh + BitVec.ofNat 32 j)) (esize s.cfg r) ≠ none) →
    ∃ es, s.copyOut r k = .ok es
  | 0, _ => ⟨[], rfl⟩
  | k + 1, hk => by
    obtain ⟨es, hes⟩ := copyOut_ok h k fun j hj => hk j (by omega)
    obtain ⟨bs, hbs⟩ := memRead_slot_some h (hk k (by omega))
    exact ⟨es ++ [bs], by simp only [State.copyOut, hes, hbs]⟩

/-- A copy out of slots of which one holds no value. -/
theorem copyOut_unwritten {s : State} {r : RingId} (h : cap s.cfg r ≠ 0#32) : ∀ k : Nat,
    (∃ j, j < k ∧
      (s.ring r).mem.readBytes (addrOf s.cfg r (s.lat.oh + BitVec.ofNat 32 j)) (esize s.cfg r) = none) →
    s.copyOut r k = .error .unwrittenSlot
  | 0, ⟨j, hj, _⟩ => absurd hj (Nat.not_lt_zero j)
  | k + 1, ⟨j, hj, hx⟩ => by
    by_cases hjk : ∃ j, j < k ∧
        (s.ring r).mem.readBytes (addrOf s.cfg r (s.lat.oh + BitVec.ofNat 32 j)) (esize s.cfg r) = none
    · simp only [State.copyOut, copyOut_unwritten h k hjk]
    · have hlast : j = k := by
        by_contra hne
        exact hjk ⟨j, by omega, hx⟩
      subst hlast
      obtain ⟨es, hes⟩ := copyOut_ok h j fun i hi hnone => hjk ⟨i, hi, hnone⟩
      simp only [State.copyOut, hes, memRead_slot_none h hx]

/-- A copy into the slots of an existing ring goes through. -/
theorem copyIn_ok {s : State} {r : RingId} (h : cap s.cfg r ≠ 0#32) : ∀ k : Nat, ∃ t, s.copyIn r k = .ok t
  | 0 => ⟨s, rfl⟩
  | k + 1 => by
    obtain ⟨t, ht⟩ := copyIn_ok h k
    have hcfg : t.cfg = s.cfg := (copyIn_keepsOthers ht).cfg
    simp only [State.copyIn, ht, State.memWrite, payload_elem_length, hcfg, if_pos (addrOf_within s.cfg r _ h)]
    exact ⟨_, rfl⟩

/-- Settles O14: `CP` of a dequeue stops in the copy, `X1` of a reclaim pass in its read. -/
theorem copyStopsOnEmptySlot : Obligations.CopyStopsOnEmptySlot := by
  refine ⟨fun i n beh s hi hat hcap hslot => ?_, fun i s hi hat hcap hslot => ?_⟩
  · rw [exec_ringRequest_line hi hat, ringopLine, copyLine, copyOut_unwritten hcap _ hslot]
    rfl
  · have hread : reclaimLine .x1 [] s = .stop .unwrittenSlot := by
      rw [reclaimLine, reclaimRead, memRead_slot_none (r := .defer) hcap hslot]
      rfl
    obtain ⟨k, hk⟩ : ∃ k, afterReclaimOf i = some k := by
      cases i <;> cases hi <;> exact ⟨_, rfl⟩
    rw [exec_busy hat, lineFlow_reclaim hk, hread]
    rfl

end Sys2Proof.Machine
end

section
/-! PROOFS. Every labelled line of a command, taken in a sound state, goes to a line of that command or ends it; the one
stop is the read of a slot that holds no value (rules R36, R92, R97, R250). -/

namespace Sys2Proof.Machine

/-! ### The units of a sound state (spec/00 rule R8, spec/10 rule R33) -/

/-- The three `*_OK` bits of a sound state. -/
theorem sound_status_bits {s : State} (h : s.status &&& 7#64 = resetStatus s.cfg &&& 7#64) :
    s.r0Ok = ringValid s.cfg ∧ s.qOk = qValid s.cfg ∧ s.dqOk = dqValid s.cfg := by
  have hbit : ∀ j, j < 3 → s.status.getLsbD j = (resetStatus s.cfg).getLsbD j := by
    intro j hj
    have hb := congrArg (fun v => v.getLsbD j) h
    have h7 : (7#64).getLsbD j = true := by
      have : j = 0 ∨ j = 1 ∨ j = 2 := by omega
      rcases this with rfl | rfl | rfl <;> rfl
    simpa only [BitVec.getLsbD_and, h7, Bool.and_true] using hb
  obtain ⟨h0, h1, h2, -⟩ := resetStatus_bits s.cfg
  exact ⟨(hbit 0 (by omega)).trans h0, (hbit 1 (by omega)).trans h1, (hbit 2 (by omega)).trans h2⟩

/-- The capacity of a ring that exists is a power of two. -/
theorem ispow2_cap_fifo {cfg : Params} (h : ringValid cfg = true) : ispow2 (cap cfg .fifo) = true := by
  simp only [ringValid, Bool.and_eq_true] at h
  exact h.1.1.1

theorem ispow2_cap_defer {cfg : Params} (h : dqValid cfg = true) : ispow2 (cap cfg .defer) = true := by
  simp only [dqValid, Bool.and_eq_true] at h
  exact h.1.1.1.1.2

theorem ne_zero_of_ispow2 {x : U32} (h : ispow2 x = true) : x ≠ 0#32 := by
  rintro rfl
  cases h

theorem sound_statusBits {s : State} (h : s.Sound) : s.status &&& 7#64 = resetStatus s.cfg &&& 7#64 := by
  obtain ⟨-, -, -, -, -, hst, -⟩ := h
  exact hst

/-- The ring that a command's `RINGOP` works on exists when the command's unit does. -/
theorem ispow2_cap_ringop {s : State} {i : Instr} {r : RingId} {sd : Side}
    (hs : s.status &&& 7#64 = resetStatus s.cfg &&& 7#64) (hi : ringopUse i = some (r, sd))
    (hu : s.unitOk (unitOf i) = true) : ispow2 (cap s.cfg r) = true := by
  obtain ⟨h0, -, h2⟩ := sound_status_bits hs
  cases i <;> simp only [ringopUse, ringRequest, Option.map_some, Option.map_none, Option.some.injEq, Prod.mk.injEq,
    reduceCtorEq] at hi
  iterate 4
    obtain ⟨rfl, -⟩ := hi
    exact ispow2_cap_fifo (h0 ▸ hu)
  obtain ⟨rfl, -⟩ := hi
  exact ispow2_cap_defer (h2 ▸ hu)

theorem ispow2_cap_reclaim {s : State} {i : Instr} {k : State → Flow}
    (hs : s.status &&& 7#64 = resetStatus s.cfg &&& 7#64) (hi : afterReclaimOf i = some k)
    (hu : s.unitOk (unitOf i) = true) : ispow2 (cap s.cfg .defer) = true := by
  obtain ⟨-, -, h2⟩ := sound_status_bits hs
  cases i <;> cases hi <;> exact ispow2_cap_defer (h2 ▸ hu)

/-! ### The lines of a command, by its return stack -/

theorem lineLegal_ringop {cfg : Params} {i : Instr} {r : RingId} {sd : Side} (h : ringopUse i = some (r, sd)) (l : Label)
    (inner : List Seq) : lineLegal cfg i l (.ringop :: inner) = ringopLegal cfg r sd l inner := by
  cases i <;> simp only [ringopUse, ringRequest, Option.map_some, Option.map_none, Option.some.injEq, Prod.mk.injEq,
    reduceCtorEq] at h <;> obtain ⟨rfl, rfl⟩ := h <;> rfl

theorem lineLegal_ringop_use {cfg : Params} {i : Instr} {l : Label} {inner : List Seq}
    (h : lineLegal cfg i l (.ringop :: inner) = true) : ∃ r sd, ringopUse i = some (r, sd) := by
  cases i <;> first | exact ⟨_, _, rfl⟩ | cases h

theorem lineLegal_count_use {cfg : Params} {i : Instr} {l : Label} {inner : List Seq}
    (h : lineLegal cfg i l (.countseq :: inner) = true) : inner = [] ∧ countLegal l = true ∧ ∃ r, countUse i = some r := by
  cases i <;> cases inner <;> first | exact ⟨rfl, h, _, rfl⟩ | cases h

theorem lineLegal_check_use {cfg : Params} {i : Instr} {l : Label} {inner : List Seq}
    (h : lineLegal cfg i l (.checkseq :: inner) = true) :
    inner = [] ∧ checkLegal l = true ∧ ∃ k, afterCheckOf i = some k := by
  cases i <;> cases inner <;> first | exact ⟨rfl, h, _, rfl⟩ | cases h

theorem lineLegal_reclaim {cfg : Params} {i : Instr} {k : State → Flow} (h : afterReclaimOf i = some k) (l : Label)
    (inner : List Seq) : lineLegal cfg i l (.reclaimseq :: inner) = reclaimLegal l inner := by
  cases i <;> cases h <;> rfl

theorem lineLegal_reclaim_use {cfg : Params} {i : Instr} {l : Label} {inner : List Seq}
    (h : lineLegal cfg i l (.reclaimseq :: inner) = true) : ∃ k, afterReclaimOf i = some k := by
  cases i <;> first | exact ⟨_, rfl⟩ | cases h

/-- What a line of a sound port looks like. -/
inductive LegalLine (cfg : Params) (i : Instr) (l : Label) : List Seq → Prop
  | own (h : lineLegal cfg i l [] = true) : LegalLine cfg i l []
  | ringop (r : RingId) (sd : Side) (inner : List Seq) (hi : ringopUse i = some (r, sd))
    (h : ringopLegal cfg r sd l inner = true) : LegalLine cfg i l (.ringop :: inner)
  | count (r : RingId) (hi : countUse i = some r) (h : countLegal l = true) : LegalLine cfg i l [.countseq]
  | check (k : State → Flow) (hi : afterCheckOf i = some k) (h : checkLegal l = true) : LegalLine cfg i l [.checkseq]
  | reclaim (k : State → Flow) (inner : List Seq) (hi : afterReclaimOf i = some k) (h : reclaimLegal l inner = true) :
    LegalLine cfg i l (.reclaimseq :: inner)

theorem legalLine_of_lineLegal {cfg : Params} {i : Instr} {l : Label} {st : List Seq}
    (h : lineLegal cfg i l st = true) : LegalLine cfg i l st := by
  rcases st with _ | ⟨q, inner⟩
  · exact .own h
  · cases q with
    | ringop =>
      obtain ⟨r, sd, hi⟩ := lineLegal_ringop_use h
      exact .ringop r sd inner hi (lineLegal_ringop hi l inner ▸ h)
    | countseq =>
      obtain ⟨rfl, hl, r, hi⟩ := lineLegal_count_use h
      exact .count r hi hl
    | checkseq =>
      obtain ⟨rfl, hl, k, hi⟩ := lineLegal_check_use h
      exact .check k hi hl
    | reclaimseq =>
      obtain ⟨k, hi⟩ := lineLegal_reclaim_use h
      exact .reclaim k inner hi (lineLegal_reclaim hi l inner ▸ h)
    | _ => cases i <;> cases h

/-! ### Where each line goes -/

variable {P : Prop}

/-- The line goes to a label that `ok` allows, returns, or ends its command with the port idle; its one stop is
`unwrittenSlot`, and then `P` holds. -/
abbrev Flow.Legal (P : Prop) (ok : Label → List Seq → Prop) (x : Flow) : Prop :=
  x.Sat (fun l st _ => ok l st) (fun _ => True) (fun u => u.phase = .idle) fun f => P ∧ f = .unwrittenSlot

/-- As `Flow.Legal`, of a line of a command's own code: it does not return. -/
abbrev Flow.Settled (P : Prop) (ok : Label → List Seq → Prop) (x : Flow) : Prop :=
  x.Sat (fun l st _ => ok l st) (fun _ => False) (fun u => u.phase = .idle) fun f => P ∧ f = .unwrittenSlot

theorem Flow.Sat.and {x : Flow} {g g' : Label → List Seq → State → Prop} {r r' e e' : State → Prop}
    {f f' : Fault → Prop} (h : x.Sat g r e f) (k : x.Sat g' r' e' f') :
    x.Sat (fun l st s => g l st s ∧ g' l st s) (fun s => r s ∧ r' s) (fun s => e s ∧ e' s) fun q => f q ∧ f' q := by
  cases x <;> exact ⟨h, k⟩

theorem KeepsOthers.granted {s u : State} (h : KeepsOthers s u) (g : s.granted) : u.granted := by
  simpa [State.granted, h.cur, h.count] using g

/-- A legal line within its caller, which goes on in a state of the same configuration with the same granted port. -/
theorem Flow.Legal.within {s : State} {x : Flow} {q : Seq} {k : State → Flow} {ok ok' : Label → List Seq → Prop}
    (h : x.Legal P ok) (hx : x.KeepsOthers s) (hok : ∀ l st, ok l st → ok' l (q :: st))
    (hk : ∀ u, Machine.KeepsOthers s u → (k u).Legal P ok') : (x.within q k).Legal P ok' :=
  Flow.Sat.within (h.and hx) (fun l st _ a => hok l st a.1) (fun u a => hk u a.2) (fun _ a => a.1) fun _ a => a.1

theorem Flow.Legal.settled_within {s : State} {x : Flow} {q : Seq} {k : State → Flow} {ok ok' : Label → List Seq → Prop}
    (h : x.Legal P ok) (hx : x.KeepsOthers s) (hok : ∀ l st, ok l st → ok' l (q :: st))
    (hk : ∀ u, Machine.KeepsOthers s u → (k u).Settled P ok') : (x.within q k).Settled P ok' :=
  Flow.Sat.within (h.and hx) (fun l st _ a => hok l st a.1) (fun u a => hk u a.2) (fun _ a => a.1) fun _ a => a.1

theorem phase_respondWith {s : State} (g : s.granted) (st : Status) (n : U32) (v : U64) (pl : List Element) :
    (s.respondWith st n v pl).phase = .idle := by
  simp [State.phase, State.respondWith_port s st n v pl g]

/-- The line answers. -/
theorem settled_respond {ok : Label → List Seq → Prop} {s : State} (g : s.granted) (st : Status) (n : U32) (v : U64) :
    (Flow.ended (s.respond st n v)).Settled P ok := phase_respondWith g st n v []

theorem settled_answer {ok : Label → List Seq → Prop} {s : State} (g : s.granted) (st : Status) :
    (answer st s).Settled P ok := settled_respond g st _ _

theorem legal_raiseFault {ok : Label → List Seq → Prop} {s : State} (g : s.granted) (f : FaultBit) :
    (raiseFault f s).Legal P ok := phase_respondWith (s := s.setFault f) g .eFault _ _ _

theorem settled_raiseFault {ok : Label → List Seq → Prop} {s : State} (g : s.granted) (f : FaultBit) :
    (raiseFault f s).Settled P ok := phase_respondWith (s := s.setFault f) g .eFault _ _ _

/-- The lines of `RESERVE` under a discipline. -/
def ReserveOk (d : Sync) (l : Label) (st : List Seq) : Prop := st = [] ∧ l ∈ reserveLabels d

theorem reserveFirst_ok (d : Sync) : ReserveOk d (reserveFirst d) [] := by
  refine ⟨rfl, ?_⟩
  cases d <;> decide

theorem reserveAvail_legal {r : RingId} {sd : Side} {next : Label} {s : State} {d : Sync}
    (h : next ∈ reserveLabels d) : (reserveAvail r sd next s).Legal P (ReserveOk d) := by
  simp only [reserveAvail]
  split
  · trivial
  · exact ⟨rfl, h⟩

theorem reserveLine_legal {r : RingId} {sd : Side} {l : Label} {s : State} {d : Sync} (g : s.granted)
    (h : l ∈ reserveLabels d) : (reserveLine r sd l s).Legal P (ReserveOk d) := by
  cases d <;> simp only [reserveLabels, List.mem_cons, List.not_mem_nil, or_false] at h
  · rcases h with rfl | rfl | rfl
    · change (reserveOwn r sd s).Legal P _
      unfold reserveOwn
      split
      · exact legal_raiseFault g _
      · exact ⟨rfl, by decide⟩
    · change (reserveAvailSt r sd s).Legal P _
      simp only [reserveAvailSt]
      split
      · trivial
      · exact ⟨rfl, by decide⟩
    · trivial
  · rcases h with rfl | rfl | rfl
    · exact ⟨rfl, by decide⟩
    · exact reserveAvail_legal (by decide)
    · change (reserveCasMt r sd s).Legal P _
      unfold reserveCasMt
      split
      · trivial
      · exact ⟨rfl, by decide⟩
  · rcases h with rfl | rfl | rfl
    · change (reserveLoadHts r sd s).Legal P _
      simp only [reserveLoadHts]
      split <;> exact ⟨rfl, by decide⟩
    · exact reserveAvail_legal (by decide)
    · change (reserveCasHts r sd s).Legal P _
      unfold reserveCasHts
      split
      · trivial
      · exact ⟨rfl, by decide⟩
  · rcases h with rfl | rfl | rfl | rfl
    · exact ⟨rfl, by decide⟩
    · change (reserveWaitRts r sd s).Legal P _
      unfold reserveWaitRts
      split <;> exact ⟨rfl, by decide⟩
    · exact reserveAvail_legal (by decide)
    · change (reserveCasRts r sd s).Legal P _
      unfold reserveCasRts
      split
      · trivial
      · exact ⟨rfl, by decide⟩

/-- The slot at position `x` has a byte that holds no value. -/
abbrev State.Unwritten (s : State) (r : RingId) (x : U32) : Prop :=
  (s.ring r).mem.readBytes (addrOf s.cfg r x) (esize s.cfg r) = none

theorem copyLine_legal {r : RingId} {s : State} (hcap : cap s.cfg r ≠ 0#32) (sd : Side)
    (hP : sd = .cons → ∀ j, j < s.lat.k.toNat → s.Unwritten r (s.lat.oh + BitVec.ofNat 32 j) → P) :
    (copyLine r sd s).Legal P fun _ _ => False := by
  unfold copyLine
  split
  · obtain ⟨t, ht⟩ := copyIn_ok hcap s.lat.k.toNat
    rw [ht]
    trivial
  · by_cases hj : ∃ j, j < s.lat.k.toNat ∧ s.Unwritten r (s.lat.oh + BitVec.ofNat 32 j)
    · obtain ⟨j, hlt, hx⟩ := id hj
      rw [copyOut_unwritten hcap _ hj]
      exact ⟨hP rfl j hlt hx, rfl⟩
    · obtain ⟨es, hes⟩ := copyOut_ok hcap s.lat.k.toNat fun j hlt hnone => hj ⟨j, hlt, hnone⟩
      rw [hes]
      trivial

theorem publishLine_legal {r : RingId} {sd : Side} {l : Label} {s : State} {d : Sync} (h : l ∈ publishLabels d) :
    (publishLine r sd l s).Legal P fun l' st => st = [] ∧ l' ∈ publishLabels d := by
  cases d <;> simp only [publishLabels, List.mem_cons, List.not_mem_nil, or_false] at h
  · subst h
    trivial
  · rcases h with rfl | rfl
    · change (publishTurn r sd s).Legal P _
      unfold publishTurn
      split <;> exact ⟨rfl, by decide⟩
    · trivial
  · subst h
    trivial
  · rcases h with rfl | rfl | rfl
    · exact ⟨rfl, by decide⟩
    · exact ⟨rfl, by decide⟩
    · change (publishCasRts r sd s).Legal P _
      unfold publishCasRts
      split
      · trivial
      · exact ⟨rfl, by decide⟩

theorem publishFirst_mem (d : Sync) : publishFirst d ∈ publishLabels d := by cases d <;> decide

theorem ringopLine_legal {r : RingId} {sd : Side} {l : Label} {st : List Seq} {s : State} (g : s.granted)
    (hcap : cap s.cfg r ≠ 0#32) (h : ringopLegal s.cfg r sd l st = true)
    (hP : l = .cp → st = [.copy] → sd = .cons →
      ∀ j, j < s.lat.k.toNat → s.Unwritten r (s.lat.oh + BitVec.ofNat 32 j) → P) :
    (ringopLine r sd l st s).Legal P fun l' st' => ringopLegal s.cfg r sd l' st' = true := by
  unfold ringopLegal at h
  split at h
  · refine (reserveLine_legal g (of_decide_eq_true h)).within (reserveLine_keepsOthers r sd l s)
      (fun l' st' hl' => ?_) fun u _ => ?_
    · obtain ⟨rfl, hl'⟩ := hl'
      exact decide_eq_true hl'
    · unfold ringopReserved
      split
      · trivial
      · exact (rfl : ringopLegal s.cfg r sd .cp [.copy] = true)
  · obtain rfl : l = .cp := of_decide_eq_true h
    refine (copyLine_legal hcap sd (hP rfl rfl)).within (copyLine_keepsOthers r sd s) (fun _ _ => False.elim) fun u hu => ?_
    rw [hu.cfg]
    exact decide_eq_true (publishFirst_mem _)
  · refine (publishLine_legal (of_decide_eq_true h)).within (publishLine_keepsOthers r sd l s)
      (fun l' st' hl' => ?_) fun u _ => trivial
    obtain ⟨rfl, hl'⟩ := hl'
    exact decide_eq_true hl'
  · cases h

theorem countLine_legal {r : RingId} {l : Label} {s : State} (h : countLegal l = true) :
    (countLine r l s).Legal P fun l' st => st = [] ∧ countLegal l' = true := by
  simp only [countLegal, List.mem_cons, List.not_mem_nil, or_false, decide_eq_true_eq] at h
  rcases h with rfl | rfl
  · exact ⟨rfl, by decide⟩
  · trivial

/-- The lines of `CHECKSEQ`. -/
def CheckOk (l : Label) (st : List Seq) : Prop := st = [] ∧ checkLegal l = true

theorem checkNext_legal (s : State) : (checkNext s).Legal P CheckOk := by
  unfold checkNext
  split
  · simp only
    split
    · unfold checkFin
      split
      · exact ⟨rfl, by decide⟩
      · trivial
    · exact ⟨rfl, by decide⟩
  · exact ⟨rfl, by decide⟩

theorem checkLine_legal {l : Label} {s : State} (h : checkLegal l = true) : (checkLine l s).Legal P CheckOk := by
  simp only [checkLegal, List.mem_cons, List.not_mem_nil, or_false, decide_eq_true_eq] at h
  rcases h with rfl | rfl | rfl | rfl
  · change (checkFast s).Legal P _
    unfold checkFast
    split
    · trivial
    · exact ⟨rfl, by decide⟩
  · exact checkNext_legal _
  · change (checkThread s).Legal P _
    simp only [checkThread]
    split
    · split
      · exact ⟨rfl, by decide⟩
      · trivial
    · exact checkNext_legal _
  · trivial

theorem reclaimLoop_legal (s : State) : (reclaimLoop s).Legal P fun l st => reclaimLegal l st = true := by
  unfold reclaimLoop
  split
  · trivial
  · exact (rfl : reclaimLegal .h1 [.reserve] = true)

theorem reclaimLine_legal {l : Label} {st : List Seq} {s : State} (g : s.granted) (hcap : cap s.cfg .defer ≠ 0#32)
    (h : reclaimLegal l st = true) (hP : l = .x1 → st = [] → s.Unwritten .defer s.lat.oh → P) :
    (reclaimLine l st s).Legal P fun l' st' => reclaimLegal l' st' = true := by
  unfold reclaimLegal at h
  split at h
  · simp only [List.mem_cons, List.not_mem_nil, or_false, decide_eq_true_eq] at h
    rcases h with rfl | rfl
    · change (reclaimRead s).Legal P _
      unfold reclaimRead
      by_cases hx : (s.ring .defer).mem.readBytes (addrOf s.cfg .defer s.lat.oh) (esize s.cfg .defer) = none
      · rw [memRead_slot_none hcap hx]
        exact ⟨hP rfl rfl hx, rfl⟩
      · obtain ⟨e, he⟩ := memRead_slot_some hcap hx
        rw [he]
        exact (rfl : reclaimLegal .v1 [.checkseq] = true)
    · exact reclaimLoop_legal _
  · refine (reserveLine_legal (d := .hts) g (of_decide_eq_true h)).within (reserveLine_keepsOthers _ _ l s)
      (fun l' st' hl' => ?_) fun u _ => ?_
    · obtain ⟨rfl, hl'⟩ := hl'
      exact decide_eq_true hl'
    · unfold reclaimReserved
      split
      · trivial
      · exact (rfl : reclaimLegal .x1 [] = true)
  · refine (checkLine_legal h).within (checkLine_keepsOthers l s) (fun l' st' hl' => ?_) fun u _ => ?_
    · obtain ⟨rfl, hl'⟩ := hl'
      exact hl'
    · unfold reclaimChecked
      split
      · exact (rfl : reclaimLegal .x2 [] = true)
      · exact (rfl : reclaimLegal .h5 [.cancel] = true)
  · obtain rfl : l = .h5 := of_decide_eq_true h
    trivial
  · cases h

/-! ### What follows a sub-sequence -/

theorem dqEnqDone_settled {ok : Label → List Seq → Prop} {u : State} (g : u.granted) : (dqEnqDone u).Settled P ok :=
  settled_respond g _ _ _

theorem afterReclaimOf_settled {i : Instr} {k : State → Flow} {u : State} (hk : afterReclaimOf i = some k)
    (g : u.granted) (cfg : Params) : (k u).Settled P fun l st => lineLegal cfg i l st = true := by
  cases i <;> cases hk
  · exact dqEnqDone_settled g
  · exact settled_respond g _ _ _
  · unfold dqDeletePassed
    split
    · exact settled_respond g _ _ _
    · exact (rfl : lineLegal cfg .dqDelete .z1 [] = true)

/-- A reclaim pass is entered at its first line, or returns at once. -/
theorem reclaimCall_settled {i : Instr} {k : State → Flow} {u : State} (hk : afterReclaimOf i = some k) (lim : Limit)
    (g : u.granted) (cfg : Params) :
    ((reclaimCall lim u).within .reclaimseq k).Settled P fun l st => lineLegal cfg i l st = true := by
  refine (reclaimLoop_legal _).settled_within (reclaimCall_keepsOthers lim u)
    (fun l st h => (lineLegal_reclaim hk l st).trans h) fun v hv => ?_
  exact afterReclaimOf_settled hk (hv.granted g) cfg

theorem afterRingopOf_settled {i : Instr} {r : RingId} {sd : Side} {u : State} (hi : ringopUse i = some (r, sd))
    (g : u.granted) (cfg : Params) : (afterRingopOf i u).Settled P fun l st => lineLegal cfg i l st = true := by
  cases i <;> simp only [ringopUse, ringRequest, Option.map_some, Option.map_none, Option.some.injEq, Prod.mk.injEq,
    reduceCtorEq] at hi
  · exact settled_respond g _ _ _
  · exact settled_respond g _ _ _
  · exact phase_respondWith g _ _ _ _
  · exact phase_respondWith g _ _ _ _
  · exact (rfl : lineLegal cfg .dqEnq .n1 [.countseq] = true)

theorem afterCountOf_settled {i : Instr} {r : RingId} {u : State} (hi : countUse i = some r) (g : u.granted)
    (cfg : Params) : (afterCountOf i u).Settled P fun l st => lineLegal cfg i l st = true := by
  cases i <;> cases hi
  · exact settled_respond g _ _ _
  · exact settled_respond g _ _ _
  · change (dqEnqCounted u).Settled P _
    unfold dqEnqCounted
    split
    · exact reclaimCall_settled (i := .dqEnq) rfl _ g cfg
    · exact dqEnqDone_settled g

theorem afterCheckOf_settled {ok : Label → List Seq → Prop} {i : Instr} {k : State → Flow} {u : State}
    (hk : afterCheckOf i = some k) (g : u.granted) : (k u).Settled P ok := by
  cases i <;> cases hk <;> exact settled_respond g _ _ _

/-! ### The lines of a command's own code -/

theorem onlyAt_settled {ok : Label → List Seq → Prop} {first l : Label} {x : Flow} (hl : l = first) (h : x.Settled P ok) :
    (onlyAt first l x).Settled P ok := by
  rw [onlyAt, if_pos hl]
  exact h

theorem updLat_granted {s : State} (g : s.granted) (f : Latches → Latches) : (s.updLat f).granted :=
  (Carries.updLat s f).granted g

theorem tkinc_settled {ok : Label → List Seq → Prop} {s : State} {k : State → Flow} (g : s.granted)
    (hk : ∀ u, u.granted → u.cfg = s.cfg → (k u).Settled P ok) : (tkinc s k).Settled P ok := by
  unfold tkinc
  split
  · exact settled_raiseFault g _
  · exact hk _ (updLat_granted (s := s.setToken (s.token + 1#64)) g _) rfl

theorem ifAlive_settled {ok : Label → List Seq → Prop} {s : State} {k : State → Flow} (g : s.granted)
    (h : (k s).Settled P ok) : (ifAlive s k).Settled P ok := by
  unfold ifAlive
  split
  · exact h
  · exact settled_answer g _

theorem regLine_settled {ok : Label → List Seq → Prop} (n : Nat) {s : State} (g : s.granted) :
    (regLine n s).Settled P ok := by
  unfold regLine
  split
  · exact settled_answer g _
  · split
    · exact settled_answer g _
    · exact settled_answer (s := ((s.setCnt n s.token).setRegd n).setNumThreads (s.numThreads + 1#32)) g _

theorem unregLine_settled {ok : Label → List Seq → Prop} (n : Nat) {s : State} (g : s.granted) :
    (unregLine n s).Settled P ok := by
  unfold unregLine
  split
  · exact settled_answer g _
  · split
    · exact settled_answer g _
    · exact settled_answer (s := (s.clearRegd n).setNumThreads (s.numThreads - 1#32)) g _

theorem quiescentProbe_settled {tid : U32} {s : State} (g : s.granted) (cfg : Params) (n : Nat) :
    (quiescentProbe n s).Settled P fun l st => lineLegal cfg (.quiescent tid) l st = true := by
  have g1 := updLat_granted g fun l => { l with qt := s.token }
  simp only [quiescentProbe]
  split
  · exact settled_answer g1 _
  · split
    · exact settled_answer g1 _
    · exact (rfl : lineLegal cfg (.quiescent tid) .q2 [] = true)

theorem syncBegin_settled {tid : U32} {s : State} (g : s.granted) (cfg : Params) :
    (syncBegin tid s).Settled P fun l st => lineLegal cfg (.sync tid) l st = true := by
  simp only [syncBegin]
  generalize (decide (tid < s.cfg.maxThreads) && s.regd tid.toNat) = rdr
  have g1 := updLat_granted g fun l => { l with rdr := rdr }
  split
  · exact settled_answer g1 _
  · refine tkinc_settled g1 fun u _ _ => ?_
    split
    · exact (rfl : lineLegal cfg (.sync tid) .y2 [] = true)
    · exact (rfl : lineLegal cfg (.sync tid) .v1 [.checkseq] = true)

theorem dqEnqBegin_settled {s : State} (g : s.granted) :
    (dqEnqBegin s).Settled P fun l st => lineLegal s.cfg .dqEnq l st = true := by
  refine ifAlive_settled g (tkinc_settled g fun u _ hu => ?_)
  change ringopLegal s.cfg .defer .prod (reserveFirst (syncOf u.cfg .defer .prod)) [.reserve] = true
  rw [hu]
  exact decide_eq_true (reserveFirst_ok _).2

theorem lockLine_settled {ok : Label → List Seq → Prop} (n : Nat) {s : State} (g : s.granted) :
    (lockLine n s).Settled P ok := by
  unfold lockLine
  split
  · exact settled_answer g _
  · exact settled_answer (s := s.setLock n (s.lockOf n + 1#32)) g _

theorem unlockLine_settled {ok : Label → List Seq → Prop} (n : Nat) {s : State} (g : s.granted) :
    (unlockLine n s).Settled P ok := by
  unfold unlockLine
  split
  · exact settled_answer g _
  · exact settled_answer (s := s.setLock n (s.lockOf n - 1#32)) g _

theorem csrLine_settled {ok : Label → List Seq → Prop} {reg : U32} {idx : U64} {s : State} (g : s.granted)
    (h : (s.csr reg idx).isNone = false) : (csrLine reg idx s).Settled P ok := by
  unfold csrLine
  split
  · exact settled_respond g _ _ _
  · rename_i hnone
    rw [hnone] at h
    cases h

theorem ownLine_settled {i : Instr} {l : Label} {s : State} (g : s.granted) (hl : lineLegal s.cfg i l [] = true)
    (ho : operandErrorOf s i = false) : (ownLine i l s).Settled P fun l' st' => lineLegal s.cfg i l' st' = true := by
  cases i with
  | thrReg tid => exact onlyAt_settled (of_decide_eq_true hl) (regLine_settled _ g)
  | thrUnreg tid => exact onlyAt_settled (of_decide_eq_true hl) (unregLine_settled _ g)
  | rdLock tid => exact onlyAt_settled (of_decide_eq_true hl) (lockLine_settled _ g)
  | rdUnlock tid => exact onlyAt_settled (of_decide_eq_true hl) (unlockLine_settled _ g)
  | start => exact onlyAt_settled (of_decide_eq_true hl) (tkinc_settled g fun u gu _ => settled_respond gu _ _ _)
  | dqEnq => exact onlyAt_settled (of_decide_eq_true hl) (dqEnqBegin_settled g)
  | dqReclaim n =>
    exact onlyAt_settled (of_decide_eq_true hl)
      (ifAlive_settled g (reclaimCall_settled (i := .dqReclaim n) rfl (.num n) g s.cfg))
  | csrRd reg idx => exact onlyAt_settled (of_decide_eq_true hl) (csrLine_settled g ho)
  | quiescent tid =>
    have hl' : l ∈ [Label.q1, .q2] := of_decide_eq_true hl
    simp only [List.mem_cons, List.not_mem_nil, or_false] at hl'
    rcases hl' with rfl | rfl
    · exact quiescentProbe_settled g s.cfg _
    · exact settled_answer (s := s.setCnt tid.toNat s.lat.qt) g _
  | sync tid =>
    have hl' : l ∈ [Label.y1, .y2, .y3] := of_decide_eq_true hl
    simp only [List.mem_cons, List.not_mem_nil, or_false] at hl'
    rcases hl' with rfl | rfl | rfl
    · exact syncBegin_settled g s.cfg
    · exact (rfl : lineLegal s.cfg (.sync tid) .y3 [] = true)
    · exact (rfl : lineLegal s.cfg (.sync tid) .v1 [.checkseq] = true)
  | dqDelete =>
    have hl' : l ∈ [Label.z0, .z1] := of_decide_eq_true hl
    simp only [List.mem_cons, List.not_mem_nil, or_false] at hl'
    rcases hl' with rfl | rfl
    · exact ifAlive_settled (k := fun u => (reclaimCall .inf u).within .reclaimseq dqDeletePassed) g
        (reclaimCall_settled (i := .dqDelete) rfl .inf g s.cfg)
    · exact settled_respond (s := s.killDq) g _ _ _
  | _ => cases hl

/-! ### Every line of every command -/

/-- The line reads a slot that holds no value: in the copy of a dequeue, or at the head of a reclaim pass. -/
def ReadsUnwritten (i : Instr) (l : Label) (st : List Seq) (s : State) : Prop :=
  (∃ r, ringopUse i = some (r, .cons) ∧ l = .cp ∧ st = [.ringop, .copy] ∧
    ∃ j, j < s.lat.k.toNat ∧ s.Unwritten r (s.lat.oh + BitVec.ofNat 32 j)) ∨
  (l = .x1 ∧ st = [.reclaimseq] ∧ s.Unwritten .defer s.lat.oh)

/-- A line of a command in a sound state goes to a line of that command, or ends it with the port idle. -/
theorem lineFlow_settled {i : Instr} {l : Label} {st : List Seq} {s : State} (g : s.granted)
    (hs : s.status &&& 7#64 = resetStatus s.cfg &&& 7#64) (hu : s.unitOk (unitOf i) = true)
    (ho : operandErrorOf s i = false) (hl : lineLegal s.cfg i l st = true) :
    (lineFlow i l st s).Settled (ReadsUnwritten i l st s) fun l' st' => lineLegal s.cfg i l' st' = true := by
  cases legalLine_of_lineLegal hl with
  | own h => exact ownLine_settled g h ho
  | ringop r sd inner hi h =>
    rw [lineFlow_ringop hi]
    have hP : l = .cp → inner = [.copy] → sd = .cons → ∀ j, j < s.lat.k.toNat →
        s.Unwritten r (s.lat.oh + BitVec.ofNat 32 j) → ReadsUnwritten i l (.ringop :: inner) s := by
      rintro rfl rfl rfl j hj hx
      exact .inl ⟨r, hi, rfl, rfl, j, hj, hx⟩
    exact (ringopLine_legal g (ne_zero_of_ispow2 (ispow2_cap_ringop hs hi hu)) h hP).settled_within
      (ringopLine_keepsOthers r sd l inner s) (fun l' st' hl' => (lineLegal_ringop hi l' st').trans hl')
      fun u hu => afterRingopOf_settled hi (hu.granted g) s.cfg
  | count r hi h =>
    rw [lineFlow_count hi]
    refine (countLine_legal h).settled_within (countLine_keepsOthers r l s) (fun l' st' hl' => ?_)
      fun u hu => afterCountOf_settled hi (hu.granted g) s.cfg
    obtain ⟨rfl, hl'⟩ := hl'
    cases i <;> cases hi <;> exact hl'
  | check k hi h =>
    rw [lineFlow_check hi]
    refine (checkLine_legal h).settled_within (checkLine_keepsOthers l s) (fun l' st' hl' => ?_)
      fun u hu => afterCheckOf_settled hi (hu.granted g)
    obtain ⟨rfl, hl'⟩ := hl'
    cases i <;> cases hi <;> exact hl'
  | reclaim k inner hi h =>
    rw [lineFlow_reclaim hi]
    have hP : l = .x1 → inner = [] → s.Unwritten .defer s.lat.oh → ReadsUnwritten i l (.reclaimseq :: inner) s := by
      rintro rfl rfl hx
      exact .inr ⟨rfl, rfl, hx⟩
    exact (reclaimLine_legal g (ne_zero_of_ispow2 (ispow2_cap_reclaim hs hi hu)) h hP).settled_within
      (reclaimLine_keepsOthers l inner s) (fun l' st' hl' => (lineLegal_reclaim hi l' st').trans hl')
      fun u hu => afterReclaimOf_settled hi (hu.granted g) s.cfg

end Sys2Proof.Machine
end

section
/-! PROOFS. What one step does to a side of a ring (spec/40): the stage of a port on a side, and `Move`, everything a step can
do to the words of the side, to the port's stage and to the latches that belong to the reservation. The invariants of
the rings are proved by cases on `Move` and unfold no line. -/

namespace Sys2Proof.Machine

/-! ### Stages -/

/-- Where a port stands on a side: outside, at a line of `RESERVE`, or with an open reservation; `pass` says that it is there
in a reclaim pass and not in a `RINGOP`. -/
inductive Stage where
  | out
  | reserving (l : Label) (pass : Bool)
  | holding (l : Label) (pass : Bool)
  deriving DecidableEq

/-- The stage on side `(r, sd)` of a port that executes `i`. -/
def stageOf (i : Instr) (r : RingId) (sd : Side) (ph : Phase) : Stage :=
  match ph with
  | .busy l [.ringop, .reserve] => if ringopUse i = some (r, sd) then .reserving l false else .out
  | .busy l [.ringop, .copy] => if ringopUse i = some (r, sd) then .holding l false else .out
  | .busy l [.ringop, .publish] => if ringopUse i = some (r, sd) then .holding l false else .out
  | .busy l [.reclaimseq, .reserve] => if (r, sd) = (RingId.defer, Side.cons) then .reserving l true else .out
  | .busy l [.reclaimseq] => if (r, sd) = (RingId.defer, Side.cons) then .holding l true else .out
  | .busy l [.reclaimseq, .checkseq] => if (r, sd) = (RingId.defer, Side.cons) then .holding l true else .out
  | .busy l [.reclaimseq, .cancel] => if (r, sd) = (RingId.defer, Side.cons) then .holding l true else .out
  | _ => .out

/-- The stage of a port on side `(r, sd)`. -/
def Port.stage (q : Port) (r : RingId) (sd : Side) : Stage :=
  match q.command with
  | some i => stageOf i r sd q.phase
  | none => .out

def Stage.isHolding : Stage → Bool
  | .holding _ _ => true
  | _ => false

def Stage.isReserving : Stage → Bool
  | .reserving _ _ => true
  | _ => false

/-- In a `RINGOP` past `S1`, or with an open reservation. -/
def Stage.isInside : Stage → Bool
  | .holding _ _ => true
  | .reserving l false => decide (l ≠ .s1)
  | _ => false

@[simp] theorem Stage.isHolding_out : Stage.out.isHolding = false := rfl
@[simp] theorem Stage.isHolding_holding (l : Label) (b : Bool) : (Stage.holding l b).isHolding = true := rfl
@[simp] theorem Stage.isHolding_reserving (l : Label) (b : Bool) : (Stage.reserving l b).isHolding = false := rfl
@[simp] theorem Stage.isReserving_out : Stage.out.isReserving = false := rfl
@[simp] theorem Stage.isReserving_holding (l : Label) (b : Bool) : (Stage.holding l b).isReserving = false := rfl
@[simp] theorem Stage.isReserving_reserving (l : Label) (b : Bool) : (Stage.reserving l b).isReserving = true := rfl
@[simp] theorem Stage.isInside_out : Stage.out.isInside = false := rfl
@[simp] theorem Stage.isInside_holding (l : Label) (b : Bool) : (Stage.holding l b).isInside = true := rfl
@[simp] theorem Stage.isInside_pass (l : Label) : (Stage.reserving l true).isInside = false := rfl
@[simp] theorem Stage.isInside_ringop (l : Label) : (Stage.reserving l false).isInside = decide (l ≠ .s1) := rfl

@[simp] theorem Stage.isHolding_ite_holding (P : Prop) [Decidable P] (l : Label) (b : Bool) :
    (if P then Stage.holding l b else .out).isHolding = decide P := by
  split <;> simp_all [Stage.isHolding]

@[simp] theorem Stage.isHolding_ite_reserving (P : Prop) [Decidable P] (l : Label) (b : Bool) :
    (if P then Stage.reserving l b else .out).isHolding = false := by
  split <;> rfl

@[simp] theorem Stage.isReserving_ite_reserving (P : Prop) [Decidable P] (l : Label) (b : Bool) :
    (if P then Stage.reserving l b else .out).isReserving = decide P := by
  split <;> simp_all [Stage.isReserving]

@[simp] theorem Stage.isReserving_ite_holding (P : Prop) [Decidable P] (l : Label) (b : Bool) :
    (if P then Stage.holding l b else .out).isReserving = false := by
  split <;> rfl

@[simp] theorem Stage.isInside_ite_holding (P : Prop) [Decidable P] (l : Label) (b : Bool) :
    (if P then Stage.holding l b else .out).isInside = decide P := by
  split <;> simp_all [Stage.isInside]

@[simp] theorem Stage.isInside_ite_ringop (P : Prop) [Decidable P] (l : Label) :
    (if P then Stage.reserving l false else .out).isInside = (decide (l ≠ .s1) && decide P) := by
  split <;> simp_all [Stage.isInside]

@[simp] theorem Stage.isInside_ite_pass (P : Prop) [Decidable P] (l : Label) :
    (if P then Stage.reserving l true else .out).isInside = false := by
  split <;> rfl

/-- The predicates of the statements, by stage. -/
theorem Port.holds_eq (q : Port) (r : RingId) (sd : Side) : q.holds r sd = (q.stage r sd).isHolding := by
  unfold Port.holds Port.stage
  cases q.command with
  | none => split <;> simp_all
  | some i =>
    unfold stageOf
    dsimp only
    split <;> split <;> simp_all

theorem Port.reserves_eq (q : Port) (r : RingId) (sd : Side) : q.reserves r sd = (q.stage r sd).isReserving := by
  unfold Port.reserves Port.stage
  cases q.command with
  | none => split <;> simp_all
  | some i =>
    unfold stageOf
    dsimp only
    split <;> split <;> simp_all

theorem Port.inside_eq (q : Port) (r : RingId) (sd : Side) : q.inside r sd = (q.stage r sd).isInside := by
  unfold Port.inside
  rw [Port.holds_eq]
  unfold Port.stage
  cases q.command with
  | none => split <;> simp_all
  | some i =>
    unfold stageOf
    dsimp only
    split <;> split <;> simp_all

/-! ### Moves -/

/-- The store by which a reservation takes its positions: the new `HT_A`. At `M3`, `H3` and `T4` the compare-and-swap has
found the word it expects (spec/40 rules R125 to R128). -/
inductive Takes : Sync → Label → Latches → U64 → U64 → Prop
  | mt {x : Latches} {a : U64} (h : loOf a = x.oh) : Takes .mt .m3 x a (storeLo a (x.oh + x.k))
  | st {x : Latches} {a : U64} : Takes .st .s3 x a (storeLo a (x.oh + x.k))
  | hts {x : Latches} {a : U64} (h : a = pack x.oh x.oh) : Takes .hts .h3 x a (pack (x.oh + x.k) x.oh)
  | rts {x : Latches} {a : U64} (h : a = pack x.oh x.oc) : Takes .rts .t4 x a (pack (x.oh + x.k) (x.oc + 1#32))

/-- The store by which a reservation is given up: published, or cancelled at `H5` (spec/40 rules R133 to R137). -/
inductive Gives : Sync → Label → Latches → SideRegs → SideRegs → Prop
  | mt {x : Latches} {w : SideRegs} : Gives .mt .m5 x w { w with b := storeLo w.b (x.oh + x.k) }
  | st {x : Latches} {w : SideRegs} : Gives .st .s4 x w { w with b := storeLo w.b (x.oh + x.k), sown := Owner.free }
  | hts {x : Latches} {w : SideRegs} : Gives .hts .h4 x w { w with a := pack (x.oh + x.k) (x.oh + x.k) }
  | free {x : Latches} {w : SideRegs} : Gives .hts .x2 x w { w with a := pack (x.oh + 1#32) (x.oh + 1#32) }
  | cancel {x : Latches} {w : SideRegs} : Gives .hts .h5 x w { w with a := pack x.oh x.oh }
  | rts {x : Latches} {w : SideRegs} (h : w.b = x.otw) : Gives .rts .t7 x w { w with b := rtsNext x.otw x.hw }

/-- The lines of `RESERVE` before which nothing is known of the side. -/
def lookLabels : List Label := [.m1, .m2, .h1, .h2, .t1, .t2, .t3]

/-- The line that computes `L.K` and the one after it. -/
def findLabels : List (Label × Label) := [(.m2, .m3), (.h2, .h3), (.t3, .t4), (.s2, .s3)]

/-- The latches after `L.K` has been computed, `av` being what is available from a head (spec/40 rule R122). -/
structure Found (av : U32 → U32) (x x' : Latches) : Prop where
  n : x'.n = x.n
  beh : x'.beh = x.beh
  oh : x'.oh = x.oh
  k : x'.k = clamp (av x.oh) x.n x.beh

/-- Everything that a step of port `p` can do on a side of discipline `d`: the stage, the latches and the words of the side
before and after. -/
inductive Move (d : Sync) (p : Nat) (av : U32 → U32) :
    Stage → Latches → SideRegs → Stage → Latches → SideRegs → Prop
  | away (x x' : Latches) (w : SideRegs) : Move d p av .out x w .out x' w
  | still (a : Stage) (x : Latches) (w : SideRegs) : Move d p av a x w a x w
  | enter (b : Bool) (x x' : Latches) (w : SideRegs) (hb : b = true → x'.n = 1#32 ∧ x'.beh = .exact) :
    Move d p av .out x w (.reserving (reserveFirst d) b) x' w
  | look (l l' : Label) (b : Bool) (x x' : Latches) (w : SideRegs) (hd : d ≠ .st) (hl' : l' ∈ lookLabels)
    (hn : x'.n = x.n) (hbeh : x'.beh = x.beh) : Move d p av (.reserving l b) x w (.reserving l' b) x' w
  | find (l l' : Label) (b : Bool) (x x' : Latches) (w : SideRegs) (hl : (l, l') ∈ findLabels) (hf : Found av x x')
    (hk : x'.k ≠ 0#32) : Move d p av (.reserving l b) x w (.reserving l' b) x' w
  | nothing (l : Label) (b : Bool) (x x' : Latches) (w : SideRegs) (hd : d = .st → l = .s1) :
    Move d p av (.reserving l b) x w .out x' w
  | own (b : Bool) (x x' : Latches) (w : SideRegs) (hd : d = .st) (hv : w.sown.valid = false) (hn : x'.n = x.n)
    (hbeh : x'.beh = x.beh) (hoh : x'.oh = loOf w.a) :
    Move d p av (.reserving .s1 b) x w (.reserving .s2 b) x' { w with sown := { valid := true, owner := p } }
  | ownNothing (b : Bool) (x x' : Latches) (w : SideRegs) (hd : d = .st) :
    Move d p av (.reserving .s2 b) x w .out x' { w with sown := Owner.free }
  | take (l l' : Label) (b : Bool) (x : Latches) (w : SideRegs) (a : U64) (hk : x.k ≠ 0#32) (h : Takes d l x w.a a)
    (hl' : l' = if b then .x1 else .cp) : Move d p av (.reserving l b) x w (.holding l' b) x { w with a := a }
  | takeNothing (l : Label) (b : Bool) (x x' : Latches) (w : SideRegs) (a : U64) (hk : x.k = 0#32)
    (h : Takes d l x w.a a) : Move d p av (.reserving l b) x w .out x' { w with a := a }
  | hold (l l' : Label) (b : Bool) (x x' : Latches) (w : SideRegs) (hl' : l' ∉ [Label.cp, .m5, .t7]) (hoh : x'.oh = x.oh)
    (hk : x'.k = x.k) : Move d p av (.holding l b) x w (.holding l' b) x' w
  | turn (b : Bool) (x : Latches) (w : SideRegs) (hd : d = .mt) (ht : loOf w.b = x.oh) :
    Move d p av (.holding .m4 b) x w (.holding .m5 b) x w
  | readHead (b : Bool) (x : Latches) (w : SideRegs) (hd : d = .rts) :
    Move d p av (.holding .t6 b) x w (.holding .t7 b) { x with hw := w.a } w
  | give (l : Label) (b : Bool) (x x' : Latches) (w w' : SideRegs) (h : Gives d l x w w') :
    Move d p av (.holding l b) x w .out x' w'
  | giveNext (l : Label) (x x' : Latches) (w w' : SideRegs) (h : Gives d l x w w') (hn : x'.n = 1#32)
    (hbeh : x'.beh = .exact) : Move d p av (.holding l true) x w (.reserving .h1 true) x' w'

/-- A side other than `(r, sd)`. -/
abbrev OtherSide (r : RingId) (sd : Side) (r' : RingId) (sd' : Side) : Prop := r' ≠ r ∨ sd' ≠ sd

/-- `Move` on side `(r, sd)` in the state `s`. -/
abbrev MoveIn (s : State) (r : RingId) (sd : Side) : Stage → Latches → SideRegs → Stage → Latches → SideRegs → Prop :=
  Move (syncOf s.cfg r sd) s.cur fun oh => avail s.cfg r sd oh (s.tailview r sd.opp)

/-- What a step does to ring storage: nothing, or it is the copy of an enqueue on `(r, sd)` (spec/40 rule R130). -/
def MemMove (s : State) (r : RingId) (sd : Side) (a : Stage) (u : State) : Prop :=
  (∀ r', (u.ring r').mem = (s.ring r').mem) ∨
    (a = .holding .cp false ∧ sd = .prod ∧
      ∃ v, s.copyIn r s.lat.k.toNat = .ok v ∧ ∀ r', (u.ring r').mem = (v.ring r').mem)

/-- From `s` to `u` the granted port goes from stage `a` on side `(r, sd)` to stage `a'`, and no other side changes. -/
structure Goes (s : State) (r : RingId) (sd : Side) (a a' : Stage) (u : State) : Prop where
  move : MoveIn s r sd a s.lat (s.side r sd) a' u.lat (u.side r sd)
  others : ∀ r' sd', OtherSide r sd r' sd' → u.side r' sd' = s.side r' sd'
  mem : MemMove s r sd a u

/-- As `Goes`, to outside, whatever the latches become. -/
structure Leaves (s : State) (r : RingId) (sd : Side) (a : Stage) (u : State) : Prop where
  move : ∀ x', MoveIn s r sd a s.lat (s.side r sd) .out x' (u.side r sd)
  others : ∀ r' sd', OtherSide r sd r' sd' → u.side r' sd' = s.side r' sd'
  mem : MemMove s r sd a u

/-- From `s`, in which the granted port executes `i` in the phase `ph`, to `u`, in which its phase is to be `ph'`: a move on
side `(r, sd)`, and nothing on any other side. -/
structure MovesTo (i : Instr) (r : RingId) (sd : Side) (ph : Phase) (s : State) (ph' : Phase) (u : State) : Prop where
  goes : Goes s r sd (stageOf i r sd ph) (stageOf i r sd ph') u
  before : ∀ r' sd', OtherSide r sd r' sd' → stageOf i r' sd' ph = .out
  after : ∀ r' sd', OtherSide r sd r' sd' → stageOf i r' sd' ph' = .out

/-! ### The lines of `RESERVE` -/

/-- A line of a reservation writes at most the one side, and no storage. -/
theorem onlySide_refl (s : State) (r : RingId) (sd : Side) : OnlySide s s r sd := ⟨fun _ => rfl, fun _ _ _ => rfl⟩

theorem onlySide_updLat (s : State) (f : Latches → Latches) (r : RingId) (sd : Side) : OnlySide s (s.updLat f) r sd :=
  ⟨fun _ => rfl, fun _ _ _ => rfl⟩

theorem onlySide_setSide (s : State) (r : RingId) (sd : Side) (w : SideRegs) : OnlySide s (s.setSide r sd w) r sd :=
  ⟨fun r' => by simp, fun r' sd' h => State.setSide_side_other s r r' sd sd' w h⟩

theorem OnlySide.trans {s t u : State} {r : RingId} {sd : Side} (h : OnlySide s t r sd) (k : OnlySide t u r sd) :
    OnlySide s u r sd :=
  ⟨fun r' => (k.1 r').trans (h.1 r'), fun r' sd' ho => (k.2 r' sd' ho).trans (h.2 r' sd' ho)⟩

theorem lat_setSide (s : State) (r : RingId) (sd : Side) (w : SideRegs) : (s.setSide r sd w).lat = s.lat := by
  rw [State.lat, State.lat, State.port_congr s (s.setSide r sd w) (by simp) (by simp)]

/-- A line of `RESERVE` that goes on. -/
def ReserveGoes (s : State) (r : RingId) (sd : Side) (l l' : Label) (u : State) : Prop :=
  OnlySide s u r sd ∧ ∀ b, MoveIn s r sd (.reserving l b) s.lat (s.side r sd) (.reserving l' b) u.lat (u.side r sd)

/-- A line of `RESERVE` after which the port is outside. -/
def ReserveLeaves (s : State) (r : RingId) (sd : Side) (l : Label) (u : State) : Prop :=
  OnlySide s u r sd ∧ ∀ b x', MoveIn s r sd (.reserving l b) s.lat (s.side r sd) .out x' (u.side r sd)

/-- A line of `RESERVE` that has taken the positions from `L.OH` on. -/
def ReserveTakes (s : State) (r : RingId) (sd : Side) (l : Label) (u : State) : Prop :=
  OnlySide s u r sd ∧ u.lat = s.lat ∧ u.lat.k ≠ 0#32 ∧
    ∃ a, Takes (syncOf s.cfg r sd) l s.lat (s.side r sd).a a ∧ u.side r sd = { s.side r sd with a := a }

/-- Everything a line of `RESERVE` can do. -/
abbrev Flow.Reserves (s : State) (r : RingId) (sd : Side) (l : Label) (x : Flow) : Prop :=
  x.Sat (fun l' st u => st = [] ∧ ReserveGoes s r sd l l' u)
    (fun u => (u.lat.k = 0#32 ∧ ReserveLeaves s r sd l u) ∨ ReserveTakes s r sd l u)
    (fun u => ReserveLeaves s r sd l u) fun _ => True

/-- A line of `RESERVE` that loads or tests, and knows nothing of the side afterwards. -/
theorem reserveGoes_look {s : State} {r : RingId} {sd : Side} {l l' : Label} (g : s.granted) (f : Latches → Latches)
    (hd : syncOf s.cfg r sd ≠ .st) (hl' : l' ∈ lookLabels) (hn : (f s.lat).n = s.lat.n) (hbeh : (f s.lat).beh = s.lat.beh) :
    ReserveGoes s r sd l l' (s.updLat f) := by
  refine ⟨onlySide_updLat s f r sd, fun b => ?_⟩
  rw [State.updLat_lat s f g]
  exact .look l l' b s.lat (f s.lat) _ hd hl' hn hbeh

theorem reserveGoes_spin {s : State} {r : RingId} {sd : Side} {l l' : Label} (hd : syncOf s.cfg r sd ≠ .st)
    (hl' : l' ∈ lookLabels) : ReserveGoes s r sd l l' s :=
  ⟨onlySide_refl s r sd, fun b => .look l l' b s.lat s.lat _ hd hl' rfl rfl⟩

/-- The state after the opposing tail has been loaded. -/
theorem loadAvail_found {s : State} (g : s.granted) (r : RingId) (sd : Side) :
    OnlySide s (s.loadAvail r sd) r sd ∧ (s.loadAvail r sd).side r sd = s.side r sd ∧
      Found (fun oh => avail s.cfg r sd oh (s.tailview r sd.opp)) s.lat (s.loadAvail r sd).lat := by
  unfold State.loadAvail
  refine ⟨onlySide_updLat s _ r sd, rfl, ?_⟩
  rw [State.updLat_lat s _ g]
  exact ⟨rfl, rfl, rfl, rfl⟩

theorem reserveAvail_reserves {s : State} {r : RingId} {sd : Side} {l next : Label} (g : s.granted)
    (hl : (l, next) ∈ findLabels) (hd : syncOf s.cfg r sd ≠ .st) : (reserveAvail r sd next s).Reserves s r sd l := by
  obtain ⟨ho, hside, hf⟩ := loadAvail_found g r sd
  simp only [reserveAvail]
  split
  · rename_i hk
    refine .inl ⟨hk, ho, fun b x' => ?_⟩
    rw [hside]
    exact .nothing l b s.lat x' _ fun h => absurd h hd
  · rename_i hk
    refine ⟨rfl, ho, fun b => ?_⟩
    rw [hside]
    exact .find l next b s.lat _ _ hl hf hk

/-- The store that takes the positions. -/
theorem reserveTake_reserves {s : State} {r : RingId} {sd : Side} {l : Label} {a : U64}
    (h : Takes (syncOf s.cfg r sd) l s.lat (s.side r sd).a a) : (Flow.ret (s.setA r sd a)).Reserves s r sd l := by
  have hlat : (s.setA r sd a).lat = s.lat := lat_setSide s r sd _
  have hside : (s.setA r sd a).side r sd = { s.side r sd with a := a } := State.setSide_side s r sd _
  have ho : OnlySide s (s.setA r sd a) r sd := onlySide_setSide s r sd _
  by_cases hk : s.lat.k = 0#32
  · refine .inl ⟨hlat ▸ hk, ho, fun b x' => ?_⟩
    rw [hside]
    exact .takeNothing l b s.lat x' _ a hk h
  · exact .inr ⟨ho, hlat, hlat ▸ hk, a, h, hside⟩

theorem reserveLine_reserves {s : State} {r : RingId} {sd : Side} {l : Label} (g : s.granted)
    (h : l ∈ reserveLabels (syncOf s.cfg r sd)) : (reserveLine r sd l s).Reserves s r sd l := by
  cases hd : syncOf s.cfg r sd <;> rw [hd] at h <;>
    simp only [reserveLabels, List.mem_cons, List.not_mem_nil, or_false] at h
  case st =>
    rcases h with rfl | rfl | rfl
    · change (reserveOwn r sd s).Reserves s r sd .s1
      simp only [reserveOwn]
      split
      · exact ⟨onlySide_refl s r sd, fun b x' => .nothing .s1 b s.lat x' _ fun _ => rfl⟩
      · rename_i hv
        have g1 : (s.setSown r sd { valid := true, owner := s.cur }).granted := (Carries.setSown s r sd _).granted g
        refine ⟨rfl, (onlySide_setSide s r sd _).trans (onlySide_updLat _ _ r sd), fun b => ?_⟩
        rw [State.updLat_lat _ _ g1, State.setSown, lat_setSide]
        have hside : ((s.setSide r sd { s.side r sd with sown := { valid := true, owner := s.cur } }).updLat
            fun l => { l with oh := s.headw r sd }).side r sd =
              { s.side r sd with sown := { valid := true, owner := s.cur } } := State.setSide_side s r sd _
        rw [hside]
        exact .own b s.lat _ _ hd (by simpa using hv) rfl rfl rfl
    · change (reserveAvailSt r sd s).Reserves s r sd .s2
      obtain ⟨ho, hside, hf⟩ := loadAvail_found g r sd
      simp only [reserveAvailSt]
      split
      · rename_i hk
        refine .inl ⟨?_, ho.trans (onlySide_setSide _ r sd _), fun b x' => ?_⟩
        · rw [State.setSown, lat_setSide]
          exact hk
        · rw [State.setSown, State.setSide_side, hside]
          exact .ownNothing b s.lat x' _ hd
      · rename_i hk
        refine ⟨rfl, ho, fun b => ?_⟩
        rw [hside]
        exact .find .s2 .s3 b s.lat _ _ (by decide) hf hk
    · exact reserveTake_reserves (hd ▸ .st)
  case mt =>
    have hne : syncOf s.cfg r sd ≠ .st := by simp [hd]
    rcases h with rfl | rfl | rfl
    · exact ⟨rfl, reserveGoes_look g _ hne (by decide) rfl rfl⟩
    · exact reserveAvail_reserves g (by decide) hne
    · change (reserveCasMt r sd s).Reserves s r sd .m3
      unfold reserveCasMt
      split
      · rename_i hh
        exact reserveTake_reserves (hd ▸ .mt hh)
      · exact ⟨rfl, reserveGoes_spin hne (by decide)⟩
  case hts =>
    have hne : syncOf s.cfg r sd ≠ .st := by simp [hd]
    rcases h with rfl | rfl | rfl
    · change (reserveLoadHts r sd s).Reserves s r sd .h1
      simp only [reserveLoadHts]
      split
      · exact ⟨rfl, reserveGoes_spin hne (by decide)⟩
      · exact ⟨rfl, reserveGoes_look g (fun l => { l with oh := loOf (s.side r sd).a }) hne (by decide) rfl rfl⟩
    · exact reserveAvail_reserves g (by decide) hne
    · change (reserveCasHts r sd s).Reserves s r sd .h3
      unfold reserveCasHts
      split
      · rename_i hh
        exact reserveTake_reserves (hd ▸ .hts hh)
      · exact ⟨rfl, reserveGoes_spin hne (by decide)⟩
  case rts =>
    have hne : syncOf s.cfg r sd ≠ .st := by simp [hd]
    rcases h with rfl | rfl | rfl | rfl
    · exact ⟨rfl, reserveGoes_look g (fun l => { l with oh := loOf (s.side r sd).a, oc := hiOf (s.side r sd).a })
        hne (by decide) rfl rfl⟩
    · change (reserveWaitRts r sd s).Reserves s r sd .t2
      unfold reserveWaitRts
      split <;> exact ⟨rfl, reserveGoes_spin hne (by decide)⟩
    · exact reserveAvail_reserves g (by decide) hne
    · change (reserveCasRts r sd s).Reserves s r sd .t4
      unfold reserveCasRts
      split
      · rename_i hh
        exact reserveTake_reserves (hd ▸ .rts hh)
      · exact ⟨rfl, reserveGoes_spin hne (by decide)⟩

end Sys2Proof.Machine
end

section
/-! PROOFS. What each line under an open reservation does to its side, and from it, for every command and every line, the one
move that a step makes on the sides of the rings (`exec_moves`). -/

namespace Sys2Proof.Machine

/-! ### The lines under an open reservation -/

/-- A line of `PUBLISH` or `CANCEL` that goes on. -/
def HoldGoes (s : State) (r : RingId) (sd : Side) (l l' : Label) (u : State) : Prop :=
  OnlySide s u r sd ∧ ∀ b, MoveIn s r sd (.holding l b) s.lat (s.side r sd) (.holding l' b) u.lat (u.side r sd)

/-- A line of `PUBLISH` or `CANCEL` that gives the reservation up. -/
def HoldGives (s : State) (r : RingId) (sd : Side) (l : Label) (u : State) : Prop :=
  OnlySide s u r sd ∧ Gives (syncOf s.cfg r sd) l s.lat (s.side r sd) (u.side r sd)

theorem holdGoes_of_lat {s u : State} {r : RingId} {sd : Side} {l l' : Label} (ho : OnlySide s u r sd)
    (hside : u.side r sd = s.side r sd) (hl' : l' ∉ [Label.cp, .m5, .t7]) (hoh : u.lat.oh = s.lat.oh)
    (hk : u.lat.k = s.lat.k) : HoldGoes s r sd l l' u := by
  refine ⟨ho, fun b => ?_⟩
  rw [hside]
  exact .hold l l' b s.lat u.lat _ hl' hoh hk

theorem holdGives_setSide {s : State} {r : RingId} {sd : Side} {l : Label} {w : SideRegs}
    (h : Gives (syncOf s.cfg r sd) l s.lat (s.side r sd) w) : HoldGives s r sd l (s.setSide r sd w) := by
  refine ⟨onlySide_setSide s r sd w, ?_⟩
  rw [State.setSide_side]
  exact h

/-- The store of the tail where it has a word of its own. -/
theorem storeTail_eq {s : State} {r : RingId} {sd : Side} (h : syncOf s.cfg r sd ≠ .hts) (v : U32) :
    s.storeTail r sd v = s.setB r sd (storeLo (s.side r sd).b v) := by
  unfold State.storeTail
  split
  · rename_i hd
    exact absurd hd h
  all_goals rfl

/-- Everything a line of `PUBLISH` can do. -/
theorem publishLine_holds {s : State} {r : RingId} {sd : Side} {l : Label} (g : s.granted)
    (h : l ∈ publishLabels (syncOf s.cfg r sd)) :
    (publishLine r sd l s).Sat (fun l' st u => st = [] ∧ HoldGoes s r sd l l' u) (HoldGives s r sd l) (fun _ => False)
      fun _ => True := by
  cases hd : syncOf s.cfg r sd <;> rw [hd] at h <;>
    simp only [publishLabels, List.mem_cons, List.not_mem_nil, or_false] at h
  case st =>
    subst h
    change HoldGives s r sd .s4 ((s.storeTail r sd (s.lat.oh + s.lat.k)).setSown r sd Owner.free)
    rw [storeTail_eq (by simp [hd])]
    refine ⟨(onlySide_setSide s r sd _).trans (onlySide_setSide _ r sd _), ?_⟩
    rw [State.setSown, State.setSide_side, State.setB, State.setSide_side]
    exact hd ▸ .st
  case mt =>
    rcases h with rfl | rfl
    · change (publishTurn r sd s).Sat _ _ _ _
      unfold publishTurn
      split
      · exact ⟨rfl, holdGoes_of_lat (onlySide_refl s r sd) rfl (by decide) rfl rfl⟩
      · rename_i ht
        refine ⟨rfl, onlySide_refl s r sd, fun b => .turn b s.lat _ hd ?_⟩
        have htail : s.tailview r sd = s.lat.oh := by simpa using ht
        simpa only [State.tailview, hd] using htail
    · change HoldGives s r sd .m5 (s.storeTail r sd (s.lat.oh + s.lat.k))
      rw [storeTail_eq (by simp [hd])]
      exact holdGives_setSide (hd ▸ .mt)
  case hts =>
    subst h
    exact holdGives_setSide (hd ▸ .hts)
  case rts =>
    rcases h with rfl | rfl | rfl
    · refine ⟨rfl, holdGoes_of_lat (onlySide_updLat s _ r sd) rfl (by decide) ?_ ?_⟩ <;> rw [State.updLat_lat s _ g]
    · refine ⟨rfl, onlySide_updLat s _ r sd, fun b => ?_⟩
      rw [State.updLat_lat s _ g]
      exact .readHead b s.lat _ hd
    · change (publishCasRts r sd s).Sat _ _ _ _
      unfold publishCasRts
      split
      · rename_i hw
        exact holdGives_setSide (hd ▸ .rts hw)
      · exact ⟨rfl, holdGoes_of_lat (onlySide_refl s r sd) rfl (by decide) rfl rfl⟩

/-- A line that changes neither ring and keeps the reservation's range. -/
structure KeepsHold (s u : State) : Prop where
  rings : SameRings s u
  oh : u.lat.oh = s.lat.oh
  k : u.lat.k = s.lat.k

theorem KeepsHold.refl (s : State) : KeepsHold s s := ⟨⟨rfl, rfl⟩, rfl, rfl⟩

theorem KeepsHold.trans {s t u : State} (h : KeepsHold s t) (k : KeepsHold t u) : KeepsHold s u :=
  ⟨⟨k.rings.1.trans h.rings.1, k.rings.2.trans h.rings.2⟩, k.oh.trans h.oh, k.k.trans h.k⟩

theorem KeepsHold.updLat {s : State} (g : s.granted) (f : Latches → Latches) (hoh : (f s.lat).oh = s.lat.oh)
    (hk : (f s.lat).k = s.lat.k) : KeepsHold s (s.updLat f) :=
  ⟨⟨rfl, rfl⟩, by rw [State.updLat_lat s f g, hoh], by rw [State.updLat_lat s f g, hk]⟩

theorem onlySide_of_sameRings {s u : State} (h : SameRings s u) (r : RingId) (sd : Side) : OnlySide s u r sd :=
  ⟨fun r' => mem_of_sameRings h r', fun r' sd' _ => side_of_sameRings h r' sd'⟩

theorem KeepsHold.holdGoes {s u : State} {r : RingId} {sd : Side} {l l' : Label} (h : KeepsHold s u)
    (hl' : l' ∉ [Label.cp, .m5, .t7]) : HoldGoes s r sd l l' u :=
  holdGoes_of_lat (onlySide_of_sameRings h.rings r sd) (side_of_sameRings h.rings r sd) hl' h.oh h.k

abbrev Flow.KeepsHold (s : State) (x : Flow) : Prop :=
  x.Sat (fun _ _ => Machine.KeepsHold s) (Machine.KeepsHold s) (fun _ => False) fun _ => True

theorem Flow.keepsHold_trans {s t : State} {x : Flow} (h : Machine.KeepsHold s t) (k : x.KeepsHold t) : x.KeepsHold s :=
  k.imp (fun _ _ _ => h.trans) (fun _ => h.trans) (fun _ => id) fun _ => id

theorem checkNext_keepsHold {s : State} (g : s.granted) : (checkNext s).KeepsHold s := by
  unfold checkNext
  split
  · have g1 := updLat_granted g fun l => { l with wi := l.wi + 1#32 }
    have h : Machine.KeepsHold s (s.updLat fun l => { l with wi := l.wi + 1#32 }) := .updLat g _ rfl rfl
    simp only
    split
    · refine Flow.keepsHold_trans h ?_
      unfold checkFin
      split
      · exact KeepsHold.refl _
      · exact KeepsHold.updLat g1 _ rfl rfl
    · exact h
  · exact KeepsHold.refl s

theorem checkLine_keepsHold {s : State} (g : s.granted) (l : Label) : (checkLine l s).KeepsHold s := by
  unfold checkLine
  split
  · unfold checkFast
    split <;> exact KeepsHold.updLat g _ rfl rfl
  · exact Flow.keepsHold_trans (.updLat g _ rfl rfl) (checkNext_keepsHold (updLat_granted g _))
  · simp only [checkThread]
    split
    · split
      · exact KeepsHold.refl s
      · exact KeepsHold.updLat g _ rfl rfl
    · exact Flow.keepsHold_trans (.updLat g _ rfl rfl) (checkNext_keepsHold (updLat_granted g _))
  · refine Flow.keepsHold_trans (t := s.maxAcked s.lat.minc) ⟨⟨rfl, rfl⟩, rfl, rfl⟩ ?_
    exact KeepsHold.updLat (s := s.maxAcked s.lat.minc) g _ rfl rfl
  · trivial

/-! ### The lines of `RINGOP` and of the reclaim pass -/

/-- The stage within a `RINGOP`, by the return stack inside it. -/
def ringopStage (l : Label) (st : List Seq) : Stage :=
  match st with
  | [.reserve] => .reserving l false
  | [.copy] => .holding l false
  | [.publish] => .holding l false
  | _ => .out

/-- The stage within a reclaim pass. -/
def passStage (l : Label) (st : List Seq) : Stage :=
  match st with
  | [.reserve] => .reserving l true
  | [] => .holding l true
  | [.checkseq] => .holding l true
  | [.cancel] => .holding l true
  | _ => .out

theorem stageOf_ringop {i : Instr} {r : RingId} {sd : Side} (hi : ringopUse i = some (r, sd)) (l : Label) (st : List Seq) :
    stageOf i r sd (.busy l (.ringop :: st)) = ringopStage l st := by
  unfold stageOf ringopStage
  split <;> simp_all

theorem stageOf_ringop_other {i : Instr} {r r' : RingId} {sd sd' : Side} (hi : ringopUse i = some (r, sd))
    (h : OtherSide r sd r' sd') (l : Label) (st : List Seq) : stageOf i r' sd' (.busy l (.ringop :: st)) = .out := by
  have hne : ringopUse i ≠ some (r', sd') := by
    rw [hi]
    rintro ⟨⟩
    exact h.elim (fun h => h rfl) fun h => h rfl
  unfold stageOf
  split <;> simp_all

theorem stageOf_pass (i : Instr) (l : Label) (st : List Seq) :
    stageOf i .defer .cons (.busy l (.reclaimseq :: st)) = passStage l st := by
  unfold stageOf passStage
  split <;> simp_all

theorem stageOf_pass_other {i : Instr} {r' : RingId} {sd' : Side} (h : OtherSide .defer .cons r' sd') (l : Label)
    (st : List Seq) : stageOf i r' sd' (.busy l (.reclaimseq :: st)) = .out := by
  have hne : (r', sd') ≠ (RingId.defer, Side.cons) := by
    rintro ⟨⟩
    exact h.elim (fun h => h rfl) fun h => h rfl
  unfold stageOf
  split <;> simp_all

theorem MemMove.ofOnlySide {s u : State} {r : RingId} {sd : Side} (h : OnlySide s u r sd) (a : Stage) :
    MemMove s r sd a u := .inl h.1

theorem HoldGoes.goes {s u : State} {r : RingId} {sd : Side} {l l' : Label} (h : HoldGoes s r sd l l' u) (b : Bool) :
    Goes s r sd (.holding l b) (.holding l' b) u := ⟨h.2 b, h.1.2, .ofOnlySide h.1 _⟩

theorem HoldGives.leaves {s u : State} {r : RingId} {sd : Side} {l : Label} (h : HoldGives s r sd l u) (b : Bool) :
    Leaves s r sd (.holding l b) u := ⟨fun x' => .give l b s.lat x' _ _ h.2, h.1.2, .ofOnlySide h.1 _⟩

theorem ReserveGoes.goes {s u : State} {r : RingId} {sd : Side} {l l' : Label} (h : ReserveGoes s r sd l l' u) (b : Bool) :
    Goes s r sd (.reserving l b) (.reserving l' b) u := ⟨h.2 b, h.1.2, .ofOnlySide h.1 _⟩

theorem ReserveLeaves.leaves {s u : State} {r : RingId} {sd : Side} {l : Label} (h : ReserveLeaves s r sd l u) (b : Bool) :
    Leaves s r sd (.reserving l b) u := ⟨h.2 b, h.1.2, .ofOnlySide h.1 _⟩

theorem ReserveTakes.goes {s u : State} {r : RingId} {sd : Side} {l : Label} (h : ReserveTakes s r sd l u) (b : Bool) :
    Goes s r sd (.reserving l b) (.holding (if b then .x1 else .cp) b) u := by
  obtain ⟨ho, hlat, hk, a, ht, hside⟩ := h
  refine ⟨?_, ho.2, .ofOnlySide ho _⟩
  rw [hlat, hside]
  exact .take l _ b s.lat _ a (hlat ▸ hk) ht rfl

/-- A change of the latches alone after the side has been left. -/
theorem Leaves.congr {s u v : State} {r : RingId} {sd : Side} {a : Stage} (h : Leaves s r sd a u) (hr : SameRings u v) :
    Leaves s r sd a v where
  move x' := by
    rw [side_of_sameRings hr]
    exact h.move x'
  others r' sd' ho := (side_of_sameRings hr r' sd').trans (h.others r' sd' ho)
  mem := by
    rcases h.mem with hm | ⟨ha, hsd, v', hv, hm⟩
    · exact .inl fun r' => (mem_of_sameRings hr r').trans (hm r')
    · exact .inr ⟨ha, hsd, v', hv, fun r' => (mem_of_sameRings hr r').trans (hm r')⟩

theorem copyIn_side {s : State} {r : RingId} : ∀ {k : Nat} {t : State}, s.copyIn r k = .ok t →
    ∀ r' sd', t.side r' sd' = s.side r' sd'
  | 0, t, h => by cases h; exact fun _ _ => rfl
  | k + 1, t, h => by
    unfold State.copyIn at h
    split at h
    · cases h
    · rename_i s1 h1
      obtain ⟨-, rfl⟩ := State.memWrite_ok h
      intro r' sd'
      rw [← copyIn_side h1 r' sd']
      by_cases hr : r' = r
      · subst hr
        rw [State.side, State.setRing_ring]
        cases sd' <;> rfl
      · rw [State.side, State.setRing_ring_other _ _ _ _ hr]
        rfl

theorem copyIn_lat {s t : State} {r : RingId} {k : Nat} (h : s.copyIn r k = .ok t) : t.lat = s.lat := by
  induction k generalizing t with
  | zero => cases h; rfl
  | succ k ih =>
    unfold State.copyIn at h
    split at h
    · cases h
    · rename_i s1 h1
      obtain ⟨-, rfl⟩ := State.memWrite_ok h
      rw [← ih h1, State.lat, State.lat, State.port_congr s1 _ (by simp) (by simp)]

/-- `CP` keeps every side, and writes storage in an enqueue. -/
theorem copyLine_goes {s : State} {r : RingId} {sd : Side} {l' : Label} (g : s.granted)
    (hl' : l' ∉ [Label.cp, .m5, .t7]) :
    (copyLine r sd s).Sat (fun _ _ _ => False) (fun u => Goes s r sd (.holding .cp false) (.holding l' false) u)
      (fun _ => False) fun _ => True := by
  unfold copyLine
  split
  · cases h : s.copyIn r s.lat.k.toNat with
    | error e => trivial
    | ok t =>
      have hlat : t.lat = s.lat := copyIn_lat h
      refine ⟨?_, fun r' sd' _ => copyIn_side h r' sd', .inr ⟨rfl, rfl, t, h, fun _ => rfl⟩⟩
      rw [copyIn_side h]
      exact .hold .cp l' false s.lat t.lat _ hl' (congrArg Latches.oh hlat) (congrArg Latches.k hlat)
  · cases h : s.copyOut r s.lat.k.toNat with
    | error e => trivial
    | ok es =>
      have hk : KeepsHold s (s.updLat fun l => { l with dst := es }) := .updLat g _ rfl rfl
      exact (hk.holdGoes hl').goes false

theorem publishFirst_not_special (d : Sync) : publishFirst d ∉ [Label.cp, .m5, .t7] := by cases d <;> decide

/-- Everything a line of `RINGOP` can do. -/
theorem ringopLine_goes {s : State} {r : RingId} {sd : Side} {l : Label} {st : List Seq} (g : s.granted)
    (h : ringopLegal s.cfg r sd l st = true) :
    (ringopLine r sd l st s).Sat (fun l' st' u => Goes s r sd (ringopStage l st) (ringopStage l' st') u)
      (Leaves s r sd (ringopStage l st)) (Leaves s r sd (ringopStage l st)) fun _ => True := by
  unfold ringopLegal at h
  split at h
  · refine Flow.Sat.within (reserveLine_reserves g (of_decide_eq_true h)) (fun l' st' u hu => ?_) (fun u hu => ?_)
      (fun u hu => hu.leaves false) fun _ _ => trivial
    · obtain ⟨rfl, hu⟩ := hu
      exact hu.goes false
    · unfold ringopReserved
      rcases hu with ⟨hk, hu⟩ | hu
      · rw [if_pos hk]
        exact hu.leaves false
      · rw [if_neg hu.2.2.1]
        exact hu.goes false
  · obtain rfl : l = .cp := of_decide_eq_true h
    refine Flow.Sat.within ((copyLine_goes (sd := sd) g (publishFirst_not_special (syncOf s.cfg r sd))).and
      (copyLine_keepsOthers r sd s)) (fun _ _ _ hu => hu.1.elim) (fun u hu => ?_) (fun _ hu => hu.1.elim) fun _ _ => trivial
    rw [hu.2.cfg]
    exact hu.1
  · refine Flow.Sat.within (publishLine_holds g (of_decide_eq_true h)) (fun l' st' u hu => ?_)
      (fun u hu => hu.leaves false) (fun _ => False.elim) fun _ _ => trivial
    obtain ⟨rfl, hu⟩ := hu
    exact hu.goes false
  · cases h

/-- A reclaim pass at its loop head: it returns, or reserves one entry exactly. -/
theorem reclaimLoop_enters {s : State} (g : s.granted) :
    (reclaimLoop s).Sat (fun l st u => SameRings s u ∧ l = .h1 ∧ st = [.reserve] ∧ u.lat.n = 1#32 ∧ u.lat.beh = .exact)
      (SameRings s) (fun _ => False) fun _ => True := by
  unfold reclaimLoop
  split
  · exact ⟨rfl, rfl⟩
  · refine ⟨⟨rfl, rfl⟩, rfl, rfl, ?_, ?_⟩ <;> rw [State.updLat_lat s _ g]

theorem reclaimCall_enters {s : State} (g : s.granted) (lim : Limit) :
    (reclaimCall lim s).Sat (fun l st u => SameRings s u ∧ l = .h1 ∧ st = [.reserve] ∧ u.lat.n = 1#32 ∧ u.lat.beh = .exact)
      (SameRings s) (fun _ => False) fun _ => True := reclaimLoop_enters (updLat_granted g _)

theorem not_special_of_checkLegal {l : Label} (h : checkLegal l = true) : l ∉ [Label.cp, .m5, .t7] := by
  revert h
  cases l <;> decide

/-- Line `X2`. -/
theorem reclaimFree_goes {s : State} (g : s.granted) :
    (reclaimFree s).Sat (fun l' st' u => Goes s .defer .cons (.holding .x2 true) (passStage l' st') u)
      (Leaves s .defer .cons (.holding .x2 true)) (fun _ => False) fun _ => True := by
  have hgive : HoldGives s .defer .cons .x2 (s.setA .defer .cons (pack (s.lat.oh + 1#32) (s.lat.oh + 1#32))) :=
    holdGives_setSide .free
  have g1 := (Carries.setA s .defer .cons (pack (s.lat.oh + 1#32) (s.lat.oh + 1#32))).granted g
  change (reclaimLoop (((s.setA .defer .cons (pack (s.lat.oh + 1#32) (s.lat.oh + 1#32))).emitFree _).updLat _)).Sat
    _ _ _ _
  refine (reclaimLoop_enters (updLat_granted ((emitFree_carries _ _).granted g1) _)).imp (fun l st u hu => ?_)
    (fun u hu => ?_) (fun _ => id) fun _ => id
  · obtain ⟨hr, rfl, rfl, hn, hbeh⟩ := hu
    refine ⟨?_, fun r' sd' ho => (side_of_sameRings hr r' sd').trans (hgive.1.2 r' sd' ho),
      .inl fun r' => (mem_of_sameRings hr r').trans (hgive.1.1 r')⟩
    rw [side_of_sameRings hr]
    exact .giveNext .x2 s.lat u.lat _ _ hgive.2 hn hbeh
  · exact (hgive.leaves true).congr hu

/-- Everything a line of the reclaim pass can do. -/
theorem reclaimLine_goes {s : State} {l : Label} {st : List Seq} (g : s.granted) (h : reclaimLegal l st = true) :
    (reclaimLine l st s).Sat (fun l' st' u => Goes s .defer .cons (passStage l st) (passStage l' st') u)
      (Leaves s .defer .cons (passStage l st)) (Leaves s .defer .cons (passStage l st)) fun _ => True := by
  unfold reclaimLegal at h
  split at h
  · simp only [List.mem_cons, List.not_mem_nil, or_false, decide_eq_true_eq] at h
    rcases h with rfl | rfl
    · change (reclaimRead s).Sat _ _ _ _
      unfold reclaimRead
      cases s.memRead .defer (addrOf s.cfg .defer s.lat.oh) (esize s.cfg .defer) with
      | error e => trivial
      | ok e =>
        have hk : KeepsHold s (s.updLat fun l => { l with ent := e, t := entryToken e, wt := false }) :=
          .updLat g _ rfl rfl
        exact (hk.holdGoes (l' := .v1) (by decide)).goes true
    · exact (reclaimFree_goes g).imp (fun _ _ _ => id) (fun _ => id) (fun _ => False.elim) fun _ => id
  · refine Flow.Sat.within (reserveLine_reserves (r := .defer) (sd := .cons) g (of_decide_eq_true h))
      (fun l' st' u hu => ?_) (fun u hu => ?_) (fun u hu => hu.leaves true) fun _ _ => trivial
    · obtain ⟨rfl, hu⟩ := hu
      exact hu.goes true
    · unfold reclaimReserved
      rcases hu with ⟨hk, hu⟩ | hu
      · rw [if_pos hk]
        exact (hu.leaves true).congr ⟨rfl, rfl⟩
      · rw [if_neg hu.2.2.1]
        exact hu.goes true
  · refine Flow.Sat.within ((checkLine_keepsHold g l).and (checkLine_legal (P := True) h)) (fun l' st' u hu => ?_)
      (fun u hu => ?_)
      (fun _ hu => hu.1.elim) fun _ _ => trivial
    · obtain ⟨hu, rfl, hl'⟩ := hu
      exact (hu.holdGoes (not_special_of_checkLegal hl')).goes true
    · unfold reclaimChecked
      split
      · exact (hu.1.holdGoes (l' := .x2) (by decide)).goes true
      · exact (hu.1.holdGoes (l' := .h5) (by decide)).goes true
  · obtain rfl : l = .h5 := of_decide_eq_true h
    have hgive : HoldGives s .defer .cons .h5 (s.setA .defer .cons (pack s.lat.oh s.lat.oh)) :=
      holdGives_setSide .cancel
    exact (hgive.leaves true).congr ⟨rfl, rfl⟩
  · cases h

end Sys2Proof.Machine
end

section
/-! PROOFS. For every command and every step: the one move that it makes on the sides of the rings. -/

namespace Sys2Proof.Machine

/-! ### Lines outside the rings, and what follows a sub-sequence -/

/-- The phase after a line that ends outside every side: it stays outside, or it enters a reservation. -/
inductive After (i : Instr) (u : State) : Phase → Prop
  | out (ph : Phase) (h : ∀ r sd, stageOf i r sd ph = .out) : After i u ph
  | ringop (r : RingId) (sd : Side) (hi : ringopUse i = some (r, sd)) :
    After i u (.busy (reserveFirst (syncOf u.cfg r sd)) [.ringop, .reserve])
  | pass (hn : u.lat.n = 1#32) (hbeh : u.lat.beh = .exact) : After i u (.busy .h1 [.reclaimseq, .reserve])

/-- A line of a command's own code that leaves both rings as they are. -/
abbrev Flow.Enters (i : Instr) (s : State) (x : Flow) : Prop :=
  x.Sat (fun l st u => SameRings s u ∧ After i u (.busy l st)) (fun _ => False) (SameRings s) fun _ => True

theorem SameRings.trans {s t u : State} (h : SameRings s t) (k : SameRings t u) : SameRings s u :=
  ⟨k.1.trans h.1, k.2.trans h.2⟩

theorem Flow.enters_trans {i : Instr} {s t : State} {x : Flow} (h : SameRings s t) (k : x.Enters i t) : x.Enters i s :=
  k.imp (fun _ _ _ a => ⟨h.trans a.1, a.2⟩) (fun _ => id) (fun _ => h.trans) fun _ => id

theorem enters_respond {i : Instr} {s u : State} (h : SameRings s u) (st : Status) (n : U32) (v : U64) :
    (Flow.ended (u.respond st n v)).Enters i s := h

theorem enters_answer {i : Instr} {s u : State} (h : SameRings s u) (st : Status) : (answer st u).Enters i s := h

/-- No side is at stake under a return stack that names no ring sequence. -/
theorem stageOf_own (i : Instr) (r : RingId) (sd : Side) (l : Label) : stageOf i r sd (.busy l []) = .out := rfl

theorem stageOf_count (i : Instr) (r : RingId) (sd : Side) (l : Label) : stageOf i r sd (.busy l [.countseq]) = .out := rfl

theorem stageOf_check (i : Instr) (r : RingId) (sd : Side) (l : Label) : stageOf i r sd (.busy l [.checkseq]) = .out := rfl

theorem enters_goto_own {i : Instr} {s u : State} (h : SameRings s u) (l : Label) : (Flow.goto l [] u).Enters i s :=
  ⟨h, .out _ fun r sd => stageOf_own i r sd l⟩

theorem enters_goto_check {i : Instr} {s u : State} (h : SameRings s u) (l : Label) :
    (Flow.goto l [.checkseq] u).Enters i s := ⟨h, .out _ fun r sd => stageOf_check i r sd l⟩

theorem afterRingopOf_leaves {i : Instr} {r : RingId} {sd : Side} (hi : ringopUse i = some (r, sd)) (u : State) :
    (afterRingopOf i u).Sat (fun l st v => SameRings u v ∧ ∀ r' sd', stageOf i r' sd' (.busy l st) = .out)
      (fun _ => False) (SameRings u) fun _ => True := by
  cases i <;> simp only [ringopUse, ringRequest, Option.map_some, Option.map_none, Option.some.injEq, Prod.mk.injEq,
    reduceCtorEq] at hi
  iterate 4 exact ⟨rfl, rfl⟩
  exact ⟨⟨rfl, rfl⟩, fun r' sd' => stageOf_count _ r' sd' .n1⟩

theorem afterReclaimOf_leaves {i : Instr} {k : State → Flow} (hk : afterReclaimOf i = some k) (u : State) :
    (k u).Sat (fun l st v => SameRings u v ∧ ∀ r' sd', stageOf i r' sd' (.busy l st) = .out)
      (fun _ => False) (SameRings u) fun _ => True := by
  cases i <;> cases hk
  · exact ⟨rfl, rfl⟩
  · exact ⟨rfl, rfl⟩
  · unfold dqDeletePassed
    split
    · exact ⟨rfl, rfl⟩
    · exact ⟨⟨rfl, rfl⟩, fun r' sd' => stageOf_own _ r' sd' .z1⟩

/-- A reclaim pass called from a command. -/
theorem reclaimCall_enters_command {i : Instr} {k : State → Flow} {s : State} (hk : afterReclaimOf i = some k)
    (g : s.granted) (lim : Limit) : ((reclaimCall lim s).within .reclaimseq k).Enters i s := by
  refine Flow.Sat.within (reclaimCall_enters g lim) (fun l st u hu => ?_) (fun u hu => ?_) (fun _ => False.elim)
    fun _ _ => trivial
  · obtain ⟨hr, rfl, rfl, hn, hbeh⟩ := hu
    exact ⟨hr, .pass hn hbeh⟩
  · exact (afterReclaimOf_leaves hk u).imp (fun _ _ _ a => ⟨hu.trans a.1, .out _ a.2⟩) (fun _ => id) (fun _ => hu.trans)
      fun _ => id

theorem afterCountOf_enters {i : Instr} {r : RingId} {u : State} (hi : countUse i = some r) (g : u.granted) :
    (afterCountOf i u).Enters i u := by
  cases i <;> cases hi
  · exact ⟨rfl, rfl⟩
  · exact ⟨rfl, rfl⟩
  · change (dqEnqCounted u).Enters .dqEnq u
    unfold dqEnqCounted
    split
    · exact reclaimCall_enters_command (i := .dqEnq) rfl g _
    · exact ⟨rfl, rfl⟩

theorem countLine_sameRings (r : RingId) (l : Label) (s : State) :
    (countLine r l s).Sat (fun _ st u => st = [] ∧ SameRings s u) (SameRings s) (fun _ => False) fun _ => True := by
  unfold countLine
  split
  · exact ⟨rfl, rfl, rfl⟩
  · exact ⟨rfl, rfl⟩
  · trivial

theorem afterCheckOf_enters {i : Instr} {k : State → Flow} (hk : afterCheckOf i = some k) (u : State) :
    (k u).Enters i u := by
  cases i <;> cases hk <;> exact ⟨rfl, rfl⟩

theorem tkinc_enters {i : Instr} {s : State} {k : State → Flow} (g : s.granted)
    (hk : ∀ u, u.granted → (k u).Enters i u) : (tkinc s k).Enters i s := by
  unfold tkinc
  split
  · exact ⟨rfl, rfl⟩
  · exact Flow.enters_trans ⟨rfl, rfl⟩ (hk _ (updLat_granted (s := s.setToken (s.token + 1#64)) g _))

theorem ifAlive_enters {i : Instr} {s : State} {k : State → Flow} (h : (k s).Enters i s) : (ifAlive s k).Enters i s := by
  unfold ifAlive
  split
  · exact h
  · exact enters_answer ⟨rfl, rfl⟩ _

theorem onlyAt_enters {i : Instr} {first l : Label} {x : Flow} {s : State} (h : x.Enters i s) :
    (onlyAt first l x).Enters i s := by
  unfold onlyAt
  split
  · exact h
  · trivial

theorem syncBegin_enters {tid : U32} {s : State} (g : s.granted) : (syncBegin tid s).Enters (.sync tid) s := by
  simp only [syncBegin]
  generalize (decide (tid < s.cfg.maxThreads) && s.regd tid.toNat) = rdr
  have g1 := updLat_granted g fun l => { l with rdr := rdr }
  split
  · exact enters_answer ⟨rfl, rfl⟩ _
  · refine Flow.enters_trans ⟨rfl, rfl⟩ (tkinc_enters g1 fun u _ => ?_)
    split
    · exact enters_goto_own ⟨rfl, rfl⟩ _
    · exact enters_goto_check ⟨rfl, rfl⟩ _

theorem dqEnqBegin_enters {s : State} (g : s.granted) : (dqEnqBegin s).Enters .dqEnq s :=
  ifAlive_enters (tkinc_enters g fun _ _ => ⟨⟨rfl, rfl⟩, .ringop .defer .prod rfl⟩)

theorem ownLine_enters {i : Instr} {l : Label} {s : State} (g : s.granted) : (ownLine i l s).Enters i s := by
  cases i with
  | thrReg tid =>
    refine onlyAt_enters ?_
    unfold regLine
    split
    · exact enters_answer ⟨rfl, rfl⟩ _
    · split <;> exact enters_answer ⟨rfl, rfl⟩ _
  | thrUnreg tid =>
    refine onlyAt_enters ?_
    unfold unregLine
    split
    · exact enters_answer ⟨rfl, rfl⟩ _
    · split <;> exact enters_answer ⟨rfl, rfl⟩ _
  | quiescent tid =>
    simp only [ownLine]
    split
    · simp only [quiescentProbe]
      split
      · exact enters_answer ⟨rfl, rfl⟩ _
      · split
        · exact enters_answer ⟨rfl, rfl⟩ _
        · exact enters_goto_own ⟨rfl, rfl⟩ _
    · exact onlyAt_enters (enters_answer ⟨rfl, rfl⟩ _)
  | start => exact onlyAt_enters (tkinc_enters g fun u _ => enters_respond ⟨rfl, rfl⟩ _ _ _)
  | sync tid =>
    simp only [ownLine]
    split
    · exact syncBegin_enters g
    · split
      · exact enters_goto_own ⟨rfl, rfl⟩ _
      · exact onlyAt_enters (enters_goto_check ⟨rfl, rfl⟩ _)
  | rdLock tid =>
    refine onlyAt_enters ?_
    unfold lockLine
    split <;> exact enters_answer ⟨rfl, rfl⟩ _
  | rdUnlock tid =>
    refine onlyAt_enters ?_
    unfold unlockLine
    split <;> exact enters_answer ⟨rfl, rfl⟩ _
  | dqEnq => exact onlyAt_enters (dqEnqBegin_enters g)
  | dqReclaim n => exact onlyAt_enters (ifAlive_enters (reclaimCall_enters_command (i := .dqReclaim n) rfl g _))
  | dqDelete =>
    simp only [ownLine]
    split
    · exact ifAlive_enters (reclaimCall_enters_command (i := .dqDelete) rfl g _)
    · exact onlyAt_enters (enters_respond (u := s.killDq) ⟨rfl, rfl⟩ _ _ _)
  | csrRd reg idx =>
    refine onlyAt_enters ?_
    unfold csrLine
    split
    · exact enters_respond ⟨rfl, rfl⟩ _ _ _
    · trivial
  | _ => trivial

/-! ### Every line of every command -/

/-- From outside every side, with both rings as they are, at most one reservation is entered. -/
theorem movesTo_of_after {i : Instr} {s u : State} {ph ph' : Phase} (hb : ∀ r sd, stageOf i r sd ph = .out)
    (hr : SameRings s u) (hc : u.cfg = s.cfg) (ha : After i u ph') : ∃ r sd, MovesTo i r sd ph s ph' u := by
  have hgoes : ∀ (r : RingId) (sd : Side) (a' : Stage), MoveIn s r sd .out s.lat (s.side r sd) a' u.lat (s.side r sd) →
      Goes s r sd (stageOf i r sd ph) a' u := by
    intro r sd a' hm
    rw [hb r sd]
    exact ⟨(side_of_sameRings hr r sd).symm ▸ hm, fun r' sd' _ => side_of_sameRings hr r' sd',
      .inl fun r' => mem_of_sameRings hr r'⟩
  cases ha with
  | out ph' h =>
    exact ⟨.fifo, .prod, by rw [h]; exact hgoes _ _ _ (.away _ _ _), fun r sd _ => hb r sd, fun r sd _ => h r sd⟩
  | ringop r sd hi =>
    refine ⟨r, sd, ?_, fun r' sd' _ => hb r' sd', fun r' sd' ho => stageOf_ringop_other hi ho _ _⟩
    rw [stageOf_ringop hi, hc]
    exact hgoes r sd _ (.enter false s.lat u.lat _ nofun)
  | pass hn hbeh =>
    refine ⟨.defer, .cons, ?_, fun r' sd' _ => hb r' sd', fun r' sd' ho => stageOf_pass_other ho _ _⟩
    rw [stageOf_pass]
    exact hgoes .defer .cons _ (.enter true s.lat u.lat _ fun _ => ⟨hn, hbeh⟩)

theorem stageOf_idle (i : Instr) (r : RingId) (sd : Side) : stageOf i r sd .idle = .out := rfl

/-- However the line leaves the command's own code, it is one move. -/
abbrev Flow.Moves (i : Instr) (s : State) (ph : Phase) (x : Flow) : Prop :=
  x.Sat (fun l st u => ∃ r sd, MovesTo i r sd ph s (.busy l st) u) (fun _ => False)
    (fun u => ∃ r sd, MovesTo i r sd ph s .idle u) fun _ => True

theorem Flow.Enters.moves {i : Instr} {s : State} {x : Flow} {ph : Phase} (h : x.Enters i s) (hk : x.KeepsOthers s)
    (hb : ∀ r sd, stageOf i r sd ph = .out) : x.Moves i s ph :=
  (Flow.Sat.and h hk).imp (fun _ _ _ hu => movesTo_of_after hb hu.1.1 hu.2.cfg hu.1.2) (fun _ hu => hu.1)
    (fun _ hu => movesTo_of_after hb hu.1 hu.2.cfg (.out _ fun r sd => stageOf_idle i r sd)) fun _ _ => trivial

/-- The side is left, and nothing is entered. -/
theorem Leaves.movesTo {i : Instr} {r : RingId} {sd : Side} {ph ph' : Phase} {s u v : State}
    (h : Leaves s r sd (stageOf i r sd ph) u) (hb : ∀ r' sd', OtherSide r sd r' sd' → stageOf i r' sd' ph = .out)
    (hr : SameRings u v) (ha : ∀ r' sd', stageOf i r' sd' ph' = .out) : MovesTo i r sd ph s ph' v := by
  have hl := h.congr hr
  refine ⟨⟨?_, hl.others, hl.mem⟩, hb, fun r' sd' _ => ha r' sd'⟩
  rw [ha]
  exact hl.move _

theorem SameRings.refl (s : State) : SameRings s s := ⟨rfl, rfl⟩

/-- A labelled line of any command, in a port that stands at a line of its command, is one move. -/
theorem lineFlow_moves {i : Instr} {l : Label} {st : List Seq} {s : State} (g : s.granted)
    (hlegal : lineLegal s.cfg i l st = true) : (lineFlow i l st s).Moves i s (.busy l st) := by
  cases legalLine_of_lineLegal hlegal with
  | own h => exact (ownLine_enters g).moves (ownLine_keepsOthers i l s) fun r sd => stageOf_own i r sd l
  | ringop r sd inner hi h =>
    rw [lineFlow_ringop hi]
    have hst : ∀ l' st', stageOf i r sd (.busy l' (.ringop :: st')) = ringopStage l' st' := stageOf_ringop hi
    have hb : ∀ r' sd', OtherSide r sd r' sd' → stageOf i r' sd' (.busy l (.ringop :: inner)) = .out :=
      fun r' sd' ho => stageOf_ringop_other hi ho _ _
    have hgoes := ringopLine_goes (sd := sd) g h
    rw [← hst l inner] at hgoes
    refine Flow.Sat.within hgoes (fun l' st' u hu => ?_) (fun u hu => ?_) (fun u hu => ?_) fun _ _ => trivial
    · exact ⟨r, sd, hst l' st' ▸ hu, hb, fun r' sd' ho => stageOf_ringop_other hi ho _ _⟩
    · exact (afterRingopOf_leaves hi u).imp (fun l' st' v hv => ⟨r, sd, hu.movesTo hb hv.1 hv.2⟩) (fun _ => id)
        (fun v hv => ⟨r, sd, hu.movesTo hb hv fun r' sd' => stageOf_idle i r' sd'⟩) fun _ => id
    · exact ⟨r, sd, hu.movesTo hb (.refl u) fun r' sd' => stageOf_idle i r' sd'⟩
  | count r hi h =>
    rw [lineFlow_count hi]
    refine Flow.Enters.moves ?_ (Flow.keepsOthers_within (countLine_keepsOthers r l s) (afterCountOf_keepsOthers i))
      fun r sd => stageOf_count i r sd l
    refine Flow.Sat.within ((countLine_sameRings r l s).and (countLine_keepsOthers r l s)) (fun l' st' u hu => ?_)
      (fun u hu => ?_) (fun _ hu => hu.1.elim) fun _ _ => trivial
    · obtain ⟨⟨rfl, hr⟩, -⟩ := hu
      exact ⟨hr, .out _ fun r' sd' => stageOf_count i r' sd' l'⟩
    · exact Flow.enters_trans hu.1 (afterCountOf_enters hi (hu.2.granted g))
  | check k hi h =>
    rw [lineFlow_check hi]
    refine Flow.Enters.moves ?_ (Flow.keepsOthers_within (checkLine_keepsOthers l s) (afterCheckOf_keepsOthers hi))
      fun r sd => stageOf_check i r sd l
    refine Flow.Sat.within ((checkLine_keepsHold g l).and (checkLine_legal (P := True) h)) (fun l' st' u hu => ?_)
      (fun u hu => ?_) (fun _ hu => hu.1.elim) fun _ _ => trivial
    · obtain ⟨hr, rfl, -⟩ := hu
      exact ⟨hr.rings, .out _ fun r' sd' => stageOf_check i r' sd' l'⟩
    · exact Flow.enters_trans hu.1.rings (afterCheckOf_enters hi u)
  | reclaim k inner hi h =>
    rw [lineFlow_reclaim hi]
    have hst : ∀ l' st', stageOf i .defer .cons (.busy l' (.reclaimseq :: st')) = passStage l' st' := stageOf_pass i
    have hb : ∀ r' sd', OtherSide .defer .cons r' sd' → stageOf i r' sd' (.busy l (.reclaimseq :: inner)) = .out :=
      fun r' sd' ho => stageOf_pass_other ho _ _
    have hgoes := reclaimLine_goes g h
    rw [← hst l inner] at hgoes
    refine Flow.Sat.within hgoes (fun l' st' u hu => ?_) (fun u hu => ?_) (fun u hu => ?_) fun _ _ => trivial
    · exact ⟨.defer, .cons, hst l' st' ▸ hu, hb, fun r' sd' ho => stageOf_pass_other ho _ _⟩
    · exact (afterReclaimOf_leaves hi u).imp (fun l' st' v hv => ⟨_, _, hu.movesTo hb hv.1 hv.2⟩) (fun _ => id)
        (fun v hv => ⟨_, _, hu.movesTo hb hv fun r' sd' => stageOf_idle i r' sd'⟩) fun _ => id
    · exact ⟨_, _, hu.movesTo hb (.refl u) fun r' sd' => stageOf_idle i r' sd'⟩

end Sys2Proof.Machine
end

section
/-! PROOFS. One step of the block as a move of one port on one side (`step_ring`); the soundness of the state is kept by every
step, and no sound state stops but for the read of an unwritten slot. -/

namespace Sys2Proof.Machine

/-! ### A command that runs in a sound state -/

/-- Every port is sound. -/
abbrev PortsSound (s : State) : Prop := ∀ q ∈ s.ports, portSound s q = true

theorem port_mem {s : State} (g : s.granted) : s.port ∈ s.ports := by
  rw [State.port_eq s g]
  exact List.getElem_mem g

/-- A busy port that runs a command: the command passed acceptance, and the port stands at one of its lines. -/
theorem Runs.busy {i : Instr} {s : State} {l : Label} {st : List Seq} (h : Runs i s) (hs : PortsSound s)
    (hp : s.phase = .busy l st) :
    s.port.command = some i ∧ s.unitOk (unitOf i) = true ∧ operandErrorOf s i = false ∧ lineLegal s.cfg i l st = true := by
  obtain ⟨g, hr⟩ := h
  rw [hp] at hr
  have hq := hs _ (port_mem g)
  have hph : s.port.phase = .busy l st := hp
  have hcom : s.port.command = some i := hr
  simp only [portSound, hph, hcom, Bool.and_eq_true, Bool.not_eq_true'] at hq
  obtain ⟨⟨hu, ho⟩, hl⟩ := hq
  exact ⟨hcom, hu, ho, hl⟩

/-- The port that a step leaves executes `i` if it is busy. -/
theorem exec_command {i : Instr} {s t : State} (h : Runs i s) (ht : exec i s = .next t) (hp : t.phase ≠ .idle) :
    t.port.command = some i := by
  obtain ⟨g, hr⟩ := h
  cases hph : s.phase with
  | busy l st =>
    rw [hph] at hr
    have hk := (exec_busy_keepsOthers (by simp [hph]) ht).command
    simp only [State.lat] at hk
    rw [Port.command, hk]
    exact hr
  | idle =>
    rw [hph] at hr
    obtain ⟨m, rest, hm, hdec⟩ := hr
    obtain ⟨m', rest', hm', ha⟩ := exec_accepts hph ht
    rw [hm] at hm'
    cases hm'
    have gpop := (popCmd_carries s).granted g
    cases ha with
    | answered st => exact absurd (phase_respondWith gpop st _ _ _) hp
    | entered hu ho =>
      have hk := ((enterState_keepsOthers i (s.popCmd.latch m)).trans
        (.setPhase _ (.busy (firstLine s.cfg i).1 (firstLine s.cfg i).2))).command
      have hcmd : (s.popCmd.latch m).lat.cmd = m.word := by
        rw [State.lat, State.latch_port _ m gpop]
      rw [hcmd] at hk
      simp only [State.lat] at hk
      exact Port.command_eq (hk ▸ (decodeMessage_ok hdec).1)

/-- A move of the granted port's latches and phase alone. -/
theorem MovesTo.setPhase {i : Instr} {r : RingId} {sd : Side} {ph ph' : Phase} {s u : State} (g : u.granted)
    (h : MovesTo i r sd ph s ph' u) : MovesTo i r sd ph s ph' (u.setPhase ph') := by
  refine ⟨⟨?_, h.goes.others, h.goes.mem⟩, h.before, h.after⟩
  rw [setPhase_lat g]
  exact h.goes.move

theorem phase_setPhase {u : State} (g : u.granted) (ph : Phase) : (u.setPhase ph).phase = ph := by
  simp [State.phase, State.setPhase_port u ph g]

/-- The move of a labelled line's step. -/
theorem Flow.Moves.outcome {i : Instr} {s t : State} {ph : Phase} {x : Flow} (g : s.granted) (h : x.Moves i s ph)
    (hk : x.KeepsOthers s) (he : x.Settled True fun _ _ => True) (ht : x.outcome = .next t) :
    ∃ r sd, MovesTo i r sd ph s t.phase t := by
  rcases Flow.outcome_next ht with ⟨l, st, u, rfl, rfl⟩ | rfl
  · have gu : u.granted := Machine.KeepsOthers.granted (s := s) hk g
    obtain ⟨r, sd, hm⟩ := h
    exact ⟨r, sd, by rw [phase_setPhase gu]; exact hm.setPhase gu⟩
  · obtain ⟨r, sd, hm⟩ := h
    have hidle : t.phase = .idle := he
    exact ⟨r, sd, hidle ▸ hm⟩

theorem enterState_rings (i : Instr) (u : State) : SameRings u (enterState i u) := by
  unfold enterState
  split
  · exact ⟨rfl, rfl⟩
  · split <;> exact ⟨rfl, rfl⟩

/-- The first line of a command that is accepted. -/
theorem after_firstLine (i : Instr) (u : State) : After i u (.busy (firstLine u.cfg i).1 (firstLine u.cfg i).2) := by
  cases i with
  | enqBulk n => exact .ringop .fifo .prod rfl
  | enqBurst n => exact .ringop .fifo .prod rfl
  | deqBulk n => exact .ringop .fifo .cons rfl
  | deqBurst n => exact .ringop .fifo .cons rfl
  | _ => exact .out _ fun r sd => rfl

/-- Every step of a command is one move. -/
theorem exec_moves {i : Instr} {s t : State} (h : Runs i s) (hs : PortsSound s)
    (hst : s.status &&& 7#64 = resetStatus s.cfg &&& 7#64) (ht : exec i s = .next t) :
    ∃ r sd, MovesTo i r sd s.phase s t.phase t := by
  have g := h.1
  cases hph : s.phase with
  | busy l st =>
    obtain ⟨-, hu, ho, hl⟩ := h.busy hs hph
    rw [exec_busy ⟨g, hph⟩] at ht
    exact (lineFlow_moves g hl).outcome g (lineFlow_keepsOthers i l st s)
      ((lineFlow_settled g hst hu ho hl).imp (fun _ _ _ _ => trivial) (fun _ => id) (fun _ => id)
        fun _ hf => ⟨trivial, hf.2⟩) ht
  | idle =>
    obtain ⟨m, rest, hm, ha⟩ := exec_accepts hph ht
    have hb : ∀ r sd, stageOf i r sd .idle = .out := stageOf_idle i
    have gpop := (popCmd_carries s).granted g
    cases ha with
    | answered st =>
      have hidle : (s.popCmd.respond st 0#32 0#64).phase = .idle := phase_respondWith gpop st _ _ _
      rw [hidle]
      exact movesTo_of_after hb ⟨rfl, rfl⟩ rfl (.out _ (stageOf_idle i))
    | entered hu ho =>
      have glatch := (Carries.updLat s.popCmd fun _ => { Latches.reset with cmd := m.word, src := m.payload }).granted gpop
      have gent := (enterState_carries i (s.popCmd.latch m)).granted glatch
      have hcfg : (enterState i (s.popCmd.latch m)).cfg = s.cfg := (enterState_keepsOthers i _).cfg
      rw [phase_setPhase gent]
      have ha := after_firstLine i (enterState i (s.popCmd.latch m))
      rw [hcfg] at ha
      have hrings := SameRings.trans (⟨rfl, rfl⟩ : SameRings s (s.popCmd.latch m)) (enterState_rings i _)
      obtain ⟨r, sd, hm⟩ := movesTo_of_after hb hrings hcfg ha
      exact ⟨r, sd, hm.setPhase gent⟩

/-! ### The copy of an enqueue -/

/-- The port stands at the copy of an enqueue on ring `r`. -/
def Port.Copying (q : Port) (r : RingId) : Prop := q.holds r .prod = true ∧ q.phase = .busy .cp [.ringop, .copy]

/-- The storage of `t` is what the copy of an enqueue on ring `r` leaves (spec/40 rule R130). -/
def Copied (s t : State) (r : RingId) : Prop :=
  ∃ v, s.copyIn r s.lat.k.toNat = .ok v ∧ ∀ r', (t.ring r').mem = (v.ring r').mem

theorem ringopUse_of_copying {q : Port} {r : RingId} {i : Instr} (h : q.Copying r) (hi : q.command = some i) :
    ringopUse i = some (r, .prod) := by
  obtain ⟨hholds, hphase⟩ := h
  simp only [Port.holds, hphase, hi] at hholds
  exact of_decide_eq_true hholds

/-- The step at the copy of an enqueue copies. -/
theorem exec_copied {i : Instr} {s t : State} {r : RingId} (h : s.atLine .cp [.ringop, .copy])
    (hi : ringopUse i = some (r, .prod)) (ht : exec i s = .next t) : Copied s t r := by
  rw [exec_busy h, lineFlow_ringop hi] at ht
  simp only [ringopLine, copyLine] at ht
  cases hv : s.copyIn r s.lat.k.toNat with
  | error f =>
    rw [hv] at ht
    cases ht
  | ok v =>
    rw [hv] at ht
    cases ht
    exact ⟨v, hv, fun _ => rfl⟩

/-! ### One step of the block -/

/-- The granted port of `s` becomes `q'` in `t`, by a move on side `(r, sd)`; no other port and no other side changes. -/
structure RingStep (s t : State) (q' : Port) (r : RingId) (sd : Side) : Prop where
  granted : s.granted
  cfg : t.cfg = s.cfg
  ports : t.ports = s.ports.set s.cur q'
  move : MoveIn s r sd (s.port.stage r sd) s.lat (s.side r sd) (q'.stage r sd) q'.lat (t.side r sd)
  others : ∀ r' sd', OtherSide r sd r' sd' → t.side r' sd' = s.side r' sd'
  before : ∀ r' sd', OtherSide r sd r' sd' → s.port.stage r' sd' = .out
  after : ∀ r' sd', OtherSide r sd r' sd' → q'.stage r' sd' = .out
  mem : MemMove s r sd (s.port.stage r sd) t
  copies : ∀ r', s.port.Copying r' → (q'.phase = s.port.phase ∧ q'.lat = s.port.lat) ∨ Copied s t r'

theorem OnlyOwnPort.ports_eq {s t : State} (g : s.granted) (h : OnlyOwnPort s t) : t.ports = s.ports.set s.cur t.port := by
  obtain ⟨-, hcur, -, -, hlen, hother⟩ := h
  have gt : t.granted := by simpa [State.granted, hcur, hlen] using g
  apply List.ext_getElem?
  intro j
  by_cases hj : s.cur = j
  · subst hj
    rw [List.getElem?_set_self g, ← hcur, State.getElem?_cur t gt]
  · rw [List.getElem?_set_ne hj, hother j (Ne.symm hj)]

theorem Port.stage_of_command {q : Port} {i : Instr} (h : q.phase ≠ .idle → q.command = some i) (r : RingId) (sd : Side) :
    q.stage r sd = stageOf i r sd q.phase := by
  unfold Port.stage
  cases hp : q.phase with
  | idle =>
    split <;> rfl
  | busy l st => rw [h (by simp [hp])]

/-- The step of a command, as a move of its port. -/
theorem exec_ringStep {i : Instr} {s t : State} (h : Runs i s) (hs : PortsSound s)
    (hst : s.status &&& 7#64 = resetStatus s.cfg &&& 7#64) (ht : exec i s = .next t) :
    ∃ r sd, RingStep s t t.port r sd := by
  obtain ⟨r, sd, hm⟩ := exec_moves h hs hst ht
  have ho := exec_onlyOwnPort ht
  have hbefore : ∀ r' sd', s.port.stage r' sd' = stageOf i r' sd' s.phase := by
    refine Port.stage_of_command fun hp => ?_
    cases hph : s.phase with
    | idle => exact absurd hph hp
    | busy l st => exact (h.busy hs hph).1
  have hafter : ∀ r' sd', t.port.stage r' sd' = stageOf i r' sd' t.phase :=
    Port.stage_of_command fun hp => exec_command h ht hp
  refine ⟨r, sd, h.1, ho.1, ho.ports_eq h.1, ?_, hm.goes.others, fun r' sd' hd => ?_, fun r' sd' hd => ?_, ?_,
    fun r' hc => ?_⟩
  · rw [hbefore, hafter]
    exact hm.goes.move
  · rw [hbefore]
    exact hm.before r' sd' hd
  · rw [hafter]
    exact hm.after r' sd' hd
  · rw [hbefore]
    exact hm.goes.mem
  · have hphase : s.phase = .busy .cp [.ringop, .copy] := hc.2
    exact .inr (exec_copied ⟨h.1, hphase⟩ (ringopUse_of_copying hc (h.busy hs hphase).1) ht)

/-- A port is at work on at most one side. -/
theorem exists_only_side (q : Port) : ∃ r sd, ∀ r' sd', OtherSide r sd r' sd' → q.stage r' sd' = .out := by
  unfold Port.stage
  cases q.command with
  | none => exact ⟨.fifo, .prod, fun _ _ _ => rfl⟩
  | some i =>
    rcases q.phase with _ | ⟨l, st⟩
    · exact ⟨.fifo, .prod, fun _ _ _ => rfl⟩
    · rcases st with _ | ⟨a, inner⟩
      · exact ⟨.fifo, .prod, fun _ _ _ => rfl⟩
      · by_cases ha : a = .reclaimseq
        · subst ha
          exact ⟨.defer, .cons, fun r' sd' ho => stageOf_pass_other ho l inner⟩
        · by_cases hr : a = .ringop
          · subst hr
            cases hi : ringopUse i with
            | none =>
              refine ⟨.fifo, .prod, fun r' sd' _ => ?_⟩
              change stageOf i r' sd' _ = .out
              unfold stageOf
              split <;> simp_all
            | some x =>
              exact ⟨x.1, x.2, fun r' sd' ho => stageOf_ringop_other hi ho l inner⟩
          · refine ⟨.fifo, .prod, fun r' sd' _ => ?_⟩
            unfold stageOf
            split <;> simp_all

/-- A step of the block that is not a reset: nothing but the model's own fields and `FREECH` changes, or one port makes one
move. -/
inductive StepMoves (s t : State) : Prop
  | still (sched : List Event) (tick : Nat) (freech : List FreeMsg)
    (h : t = { s.withOwn s.cur sched tick with freech := freech })
  | reset (cfg : Params) (hev : (nextEvent s).1 = some (.reset cfg)) (sched : List Event) (tick : Nat)
    (h : t = { State.resetWith cfg with sched := sched, tick := tick })
  | moves (p : Nat) (sched : List Event) (tick : Nat) (q' : Port) (r : RingId) (sd : Side)
    (h : RingStep (s.withOwn p sched tick) t q' r sd)

theorem step_moves {s t : State} (hs : s.Sound) (h : step s = .next t) : StepMoves s t := by
  obtain ⟨-, -, -, -, -, hst, hports⟩ := hs
  cases step_cases h with
  | still sched tick freech => exact .still sched tick freech rfl
  | reset cfg sched tick hev => exact .reset cfg hev sched tick rfl
  | run i p sched tick _ hruns hexec =>
    obtain ⟨r, sd, hr⟩ := exec_ringStep hruns hports hst hexec
    exact .moves p sched tick _ r sd hr
  | touch p q q' cur sched tick hq hphase hlat =>
    obtain ⟨hg, hport⟩ := State.withOwn_port (sched := sched) (tick := tick) hq
    obtain ⟨r, sd, hother⟩ := exists_only_side q
    have hstage : ∀ r' sd', q'.stage r' sd' = q.stage r' sd' := fun r' sd' => by
      simp only [Port.stage, Port.command, hphase, hlat]
    refine .moves p sched tick q' r sd ⟨hg, rfl, rfl, ?_, fun _ _ _ => rfl, ?_, ?_, .inl fun _ => rfl, fun _ _ => .inl ?_⟩
    · rw [hstage, hlat, State.lat, hport]
      exact .still _ _ _
    · rw [hport]
      exact hother
    · intro r' sd' ho
      rw [hstage]
      exact hother r' sd' ho
    · rw [hport]
      exact ⟨hphase, hlat⟩

end Sys2Proof.Machine
end

section
/-! PROOFS. A sound state stays sound, and no step from it stops but for the read of an unwritten slot (rules R20 to R41,
R92, R97, R250); the state after reset meets every invariant (rules R41, R280). -/

namespace Sys2Proof.Machine

/-! ### A sound state never stops -/

/-- A port that is busy with no command. -/
def State.LostCommand (s : State) : Prop := ∃ q ∈ s.ports, q.phase ≠ .idle ∧ q.command = none

/-- A granted step: it answers, or it is a step of a command. -/
theorem grantTo_answers_or_runs {s : State} {p : Nat} {q : Port} (sched : List Event) (tick : Nat)
    (hq : s.ports[p]? = some q) (hs : ¬ s.LostCommand) :
    (∃ t, grantTo p q (s.withOwn s.cur sched tick) = .next t) ∨
      ∃ i, Runs i (s.withOwn p sched tick) ∧
        grantTo p q (s.withOwn s.cur sched tick) = exec i (s.withOwn p sched tick) := by
  obtain ⟨hg, hport⟩ := State.withOwn_port (sched := sched) (tick := tick) hq
  unfold grantTo
  split
  · rename_i l st hphase
    split
    · rename_i i hi
      refine .inr ⟨i, ⟨hg, ?_⟩, rfl⟩
      rw [State.phase, hport, hphase]
      exact hi
    · rename_i hnone
      exact absurd ⟨q, List.mem_of_getElem? hq, by simp [hphase], hnone⟩ hs
  · rename_i m rest hphase hch
    split
    · rename_i i hi
      refine .inr ⟨i, ⟨hg, ?_⟩, rfl⟩
      rw [State.phase, hport, hphase]
      exact ⟨m, rest, hch, hi⟩
    · exact .inl ⟨_, rfl⟩
  · exact .inl ⟨_, rfl⟩

/-- A step answers a next state, or it is a step of a command. -/
theorem step_answers_or_runs {s : State} (hs : ¬ s.LostCommand) :
    (∃ t, step s = .next t) ∨
      ∃ i p sched tick, Runs i (s.withOwn p sched tick) ∧ step s = exec i (s.withOwn p sched tick) := by
  obtain ⟨sched, tick, hnext⟩ : ∃ sched tick, (nextEvent s).2 = s.withOwn s.cur sched tick := by
    unfold nextEvent
    split
    · exact ⟨_, s.tick, rfl⟩
    · exact ⟨s.sched, _, rfl⟩
  rw [step, hnext]
  unfold stepEvent
  split
  · exact .inl ⟨_, rfl⟩
  · split
    · rename_i p _ _ q hq
      rcases grantTo_answers_or_runs sched tick hq hs with h | ⟨i, hruns, h⟩
      · exact .inl h
      · exact .inr ⟨i, p, sched, tick, hruns, h⟩
    · exact .inl ⟨_, rfl⟩
  all_goals exact .inl ⟨_, rfl⟩

theorem not_lostCommand {s : State} (h : PortsSound s) : ¬ s.LostCommand := by
  rintro ⟨q, hq, hphase, hcom⟩
  have hsound := h q hq
  unfold portSound at hsound
  split at hsound
  · rename_i hidle
    exact hphase hidle
  · rw [hcom] at hsound
    cases hsound

theorem Flow.Settled.outcome {P : Prop} {ok : Label → List Seq → Prop} {x : Flow} (h : x.Settled P ok) :
    (∃ t, x.outcome = .next t) ∨ (x.outcome = .fault .unwrittenSlot ∧ P) := by
  cases x with
  | goto l st s => exact .inl ⟨_, rfl⟩
  | ret s => exact h.elim
  | ended s => exact .inl ⟨_, rfl⟩
  | stop f => exact .inr ⟨congrArg Host.Outcome.fault h.2, h.1⟩

/-- An acceptance step answers. -/
theorem exec_idle_answers {i : Instr} {s : State} (h : Runs i s) (hp : s.phase = .idle) : ∃ t, exec i s = .next t := by
  obtain ⟨g, hr⟩ := h
  rw [hp] at hr
  obtain ⟨m, rest, hm, -⟩ := hr
  rw [exec_idle g hp]
  unfold accept
  rw [hm]
  dsimp only
  split
  · exact ⟨_, rfl⟩
  · split
    · exact ⟨_, rfl⟩
    · split <;> exact ⟨_, rfl⟩

/-- A step of a command in a sound state. -/
theorem exec_answers_or_unwritten {i : Instr} {s : State} (h : Runs i s) (hs : PortsSound s)
    (hst : s.status &&& 7#64 = resetStatus s.cfg &&& 7#64) :
    (∃ t, exec i s = .next t) ∨
      (exec i s = .fault .unwrittenSlot ∧ ∃ l st, s.phase = .busy l st ∧ ReadsUnwritten i l st s) := by
  cases hp : s.phase with
  | idle => exact .inl (exec_idle_answers h hp)
  | busy l st =>
    obtain ⟨-, hu, ho, hl⟩ := h.busy hs hp
    rw [exec_busy ⟨h.1, hp⟩]
    exact (lineFlow_settled h.1 hst hu ho hl).outcome.imp_right (And.imp_right fun hr => ⟨l, st, rfl, hr⟩)

/-! ### What the soundness of a port depends on -/

/-- A row of a table, found by the number in its first column. -/
theorem exists_row {α β : Type} {rows : List (α × β)} {P : α × β → Prop} (h : ∀ x ∈ rows, P x) {a : α}
    (ha : a ∈ rows.map Prod.fst) : ∃ b, P (a, b) := by
  obtain ⟨x, hx, rfl⟩ := List.mem_map.mp ha
  exact ⟨x.2, h x hx⟩

/-- Whether a scalar register has an index (rule R39). -/
theorem State.csr_scalar_isNone (s : State) {reg : U32} (h : reg ∈ scalarCsrs) (idx : U64) :
    (s.csr reg idx).isNone = decide (idx ≠ 0#64) := by
  obtain ⟨hscalar, -⟩ := csrMap s
  obtain ⟨v, hzero, hother⟩ := exists_row hscalar h
  dsimp only at hzero hother
  by_cases hidx : idx = 0#64
  · subst hidx
    simp [hzero]
  · simp [hother idx hidx, hidx]

/-- Which registers there are depends on the configuration alone (rules R39, R40). -/
theorem csr_isNone_congr {s t : State} (h : t.cfg = s.cfg) (reg : U32) (idx : U64) :
    (t.csr reg idx).isNone = (s.csr reg idx).isNone := by
  by_cases hreg : reg ∈ scalarCsrs
  · rw [t.csr_scalar_isNone hreg, s.csr_scalar_isNone hreg]
  · by_cases hbank : reg ∈ bankedCsrs
    · obtain ⟨-, hs, -⟩ := csrMap s
      obtain ⟨-, ht, -⟩ := csrMap t
      obtain ⟨hs0, hs1, hs2⟩ := hs idx
      obtain ⟨ht0, ht1, ht2⟩ := ht idx
      simp only [bankedCsrs, List.mem_cons, List.not_mem_nil, or_false] at hbank
      rcases hbank with rfl | rfl | rfl
      · rw [hs0, ht0, h]
        split <;> rfl
      · rw [hs1, ht1, h]
        split <;> rfl
      · rw [hs2, ht2, h]
        split <;> rfl
    · have hno : reg ∉ scalarCsrs ++ bankedCsrs := by simpa using ⟨hreg, hbank⟩
      rw [s.csr_unmapped idx hno, t.csr_unmapped idx hno]

theorem operandErrorOf_congr {s t : State} (h : t.cfg = s.cfg) (i : Instr) : operandErrorOf t i = operandErrorOf s i := by
  cases i <;> simp only [operandErrorOf, h]
  exact csr_isNone_congr h _ _

/-- The configuration, and the `*_OK` bits as it says. -/
structure SameUnits (s t : State) : Prop where
  cfg : t.cfg = s.cfg
  status : t.status &&& 7#64 = s.status &&& 7#64

theorem SameUnits.trans {s t u : State} (h : SameUnits s t) (k : SameUnits t u) : SameUnits s u :=
  ⟨k.cfg.trans h.cfg, k.status.trans h.status⟩

theorem SameUnits.unitOk {s t : State} (h : SameUnits s t) (hs : s.status &&& 7#64 = resetStatus s.cfg &&& 7#64)
    (c : CmdUnit) : t.unitOk c = s.unitOk c := by
  have ht : t.status &&& 7#64 = resetStatus t.cfg &&& 7#64 := by rw [h.status, hs, h.cfg]
  obtain ⟨h0, h1, h2⟩ := sound_status_bits hs
  obtain ⟨k0, k1, k2⟩ := sound_status_bits ht
  rw [h.cfg] at k0 k1 k2
  cases c with
  | ring => exact k0.trans h0.symm
  | qsbr => exact k1.trans h1.symm
  | deferQueue => exact k2.trans h2.symm
  | system => rfl

theorem SameUnits.portSound {s t : State} (h : SameUnits s t) (hs : s.status &&& 7#64 = resetStatus s.cfg &&& 7#64)
    (q : Port) : portSound t q = portSound s q := by
  unfold Machine.portSound
  cases q.phase with
  | idle => rfl
  | busy l st =>
    cases q.command with
    | none => rfl
    | some i => simp only [h.unitOk hs, operandErrorOf_congr h.cfg, h.cfg]

/-! ### Storage -/

/-- Each ring's storage is in canonical form and within its size (rule R26). -/
def State.StorageOk (s : State) : Prop :=
  ∀ r, (s.ring r).mem.wf = true ∧ (s.ring r).mem.within (memSize s.cfg r)

theorem State.storageOk_iff (s : State) :
    (∀ r ∈ [RingId.fifo, .defer], (s.ring r).mem.wf = true ∧ (s.ring r).mem.within (memSize s.cfg r)) ↔ s.StorageOk :=
  ⟨fun h r => h r (by cases r <;> simp), fun h r _ => h r⟩

theorem memWrite_storageOk {s t : State} {r : RingId} {a : Nat} {v : List Byte} (h : s.memWrite r a v = .ok t)
    (hs : s.StorageOk) : t.StorageOk := by
  obtain ⟨hle, rfl⟩ := State.memWrite_ok h
  intro r'
  by_cases hr : r' = r
  · subst hr
    rw [State.setRing_ring, State.setRing_cfg]
    exact ⟨Memory.writeBytes_wf _ _ _ (hs r').1, Memory.writeBytes_within _ _ _ _ hle (hs r').2⟩
  · rw [State.setRing_ring_other _ _ _ _ hr, State.setRing_cfg]
    exact hs r'

theorem copyIn_storageOk {s t : State} {r : RingId} {k : Nat} (h : s.copyIn r k = .ok t) (hs : s.StorageOk) :
    t.StorageOk := by
  induction k generalizing t with
  | zero =>
    cases h
    exact hs
  | succ k ih =>
    unfold State.copyIn at h
    split at h
    · cases h
    · rename_i s1 h1
      exact memWrite_storageOk h (ih h1)

theorem MemMove.storageOk {s t : State} {r : RingId} {sd : Side} {a : Stage} (h : MemMove s r sd a t)
    (hcfg : t.cfg = s.cfg) (hs : s.StorageOk) : t.StorageOk := by
  rcases h with h | ⟨-, -, v, hv, h⟩
  · intro r'
    rw [h, hcfg]
    exact hs r'
  · intro r'
    have hv' := copyIn_storageOk hv hs r'
    rw [(copyIn_keepsOthers hv).cfg] at hv'
    rw [h, hcfg]
    exact hv'

/-! ### The registers -/

/-- The sizes of the per-thread registers and the `*_OK` bits. -/
structure SameShape (s t : State) : Prop where
  bitmap : t.bitmap.length = s.bitmap.length
  cnt : t.cnt.length = s.cnt.length
  lockcnt : t.lockcnt.length = s.lockcnt.length
  status : t.status &&& 7#64 = s.status &&& 7#64

theorem SameRegs.shape {s u t : State} (h : SameRegs u t) (k : SameShape s u) : SameShape s t := by
  obtain ⟨hbitmap, -, hcnt, hlock⟩ := h.threads
  obtain ⟨hstatus, -⟩ := h.flags
  exact ⟨hbitmap ▸ k.bitmap, hcnt ▸ k.cnt, hlock ▸ k.lockcnt, hstatus ▸ k.status⟩

theorem RegEffect.shape {i : Instr} {s t : State} (h : RegEffect i s t) : SameShape s t := by
  cases h with
  | same h => exact h.regs.shape ⟨rfl, rfl, rfl, rfl⟩
  | token _ _ _ h => exact h.regs.shape ⟨rfl, rfl, rfl, rfl⟩
  | fault f _ h _ => exact h.regs.shape ⟨rfl, rfl, rfl, rfl⟩
  | acked _ _ _ h => exact h.regs.shape ⟨rfl, rfl, rfl, rfl⟩
  | register tid _ _ _ h => exact h.regs.shape ⟨by simp, by simp, rfl, rfl⟩
  | unregister tid _ _ _ h => exact h.regs.shape ⟨by simp, rfl, rfl, rfl⟩
  | report tid _ h => exact h.regs.shape ⟨rfl, by simp, rfl, rfl⟩
  | lock tid v _ h => exact h.regs.shape ⟨rfl, rfl, by simp, rfl⟩
  | kill _ _ h =>
    refine h.regs.shape ⟨rfl, rfl, rfl, ?_⟩
    change (s.status &&& ~~~(8#64)) &&& 7#64 = s.status &&& 7#64
    rw [BitVec.and_assoc]
    rfl

/-! ### Soundness is kept -/

/-- A command's first line is one of its lines. -/
theorem lineLegal_firstLine (cfg : Params) (i : Instr) : lineLegal cfg i (firstLine cfg i).1 (firstLine cfg i).2 = true := by
  cases i with
  | enqBulk n => exact decide_eq_true (reserveFirst_ok cfg.psync0).2
  | enqBurst n => exact decide_eq_true (reserveFirst_ok cfg.psync0).2
  | deqBulk n => exact decide_eq_true (reserveFirst_ok cfg.csync0).2
  | deqBurst n => exact decide_eq_true (reserveFirst_ok cfg.csync0).2
  | _ => rfl

/-- A busy port after a step of its command stands at a line of that command. -/
theorem exec_line {i : Instr} {s t : State} {l : Label} {st : List Seq} (h : Runs i s) (hs : PortsSound s)
    (hst : s.status &&& 7#64 = resetStatus s.cfg &&& 7#64) (ht : exec i s = .next t) (hp : t.phase = .busy l st) :
    s.unitOk (unitOf i) = true ∧ operandErrorOf s i = false ∧ lineLegal s.cfg i l st = true := by
  cases hph : s.phase with
  | idle =>
    obtain ⟨m, rest, -, ha⟩ := exec_accepts hph ht
    have gpop := (popCmd_carries s).granted h.1
    cases ha with
    | answered st' =>
      have hidle : (s.popCmd.respond st' 0#32 0#64).phase = .idle := phase_respondWith gpop st' _ _ _
      rw [hidle] at hp
      cases hp
    | entered hu ho =>
      have glatch := (Carries.updLat s.popCmd fun _ => { Latches.reset with cmd := m.word, src := m.payload }).granted gpop
      rw [phase_setPhase ((enterState_carries i (s.popCmd.latch m)).granted glatch)] at hp
      cases hp
      exact ⟨hu, ho, lineLegal_firstLine s.cfg i⟩
  | busy l0 st0 =>
    obtain ⟨-, hu, ho, hl⟩ := h.busy hs hph
    have hsettled := lineFlow_settled h.1 hst hu ho hl
    rw [exec_busy ⟨h.1, hph⟩] at ht
    refine ⟨hu, ho, ?_⟩
    rcases Flow.outcome_next ht with ⟨l', st', u, hx, rfl⟩ | hx
    · have hk := lineFlow_keepsOthers i l0 st0 s
      rw [hx] at hsettled hk
      rw [phase_setPhase (Machine.KeepsOthers.granted hk h.1)] at hp
      cases hp
      exact hsettled
    · rw [hx] at hsettled
      have hidle : t.phase = .idle := hsettled
      rw [hidle] at hp
      cases hp

theorem exec_portSound {i : Instr} {s t : State} (h : Runs i s) (hs : PortsSound s)
    (hst : s.status &&& 7#64 = resetStatus s.cfg &&& 7#64) (ht : exec i s = .next t) : portSound s t.port = true := by
  unfold portSound
  split
  · rfl
  · rename_i l st hp
    obtain ⟨hu, ho, hl⟩ := exec_line h hs hst ht hp
    rw [exec_command h ht (by simp [State.phase, hp])]
    simp [hu, ho, hl]

/-- All of the soundness that one step of one port bears on. -/
theorem sound_of_ports_set {s t : State} {p : Nat} {q' : Port} (hs : s.Sound) (hcfg : t.cfg = s.cfg)
    (hshape : SameShape s t) (hports : t.ports = s.ports.set p q') (hmem : t.StorageOk) (hq' : portSound s q' = true) :
    t.Sound := by
  obtain ⟨hlen, hbitmap, hcnt, hlock, -, hst, hsound⟩ := hs
  refine ⟨?_, ?_, ?_, ?_, t.storageOk_iff.mpr hmem, ?_, fun q hq => ?_⟩
  · rw [hports, List.length_set, hlen, hcfg]
  · rw [hshape.bitmap, hbitmap, hcfg]
  · rw [hshape.cnt, hcnt, hcfg]
  · rw [hshape.lockcnt, hlock, hcfg]
  · rw [hshape.status, hst, hcfg]
  · rw [SameUnits.portSound ⟨hcfg, hshape.status⟩ hst]
    rw [hports] at hq
    rcases List.mem_or_eq_of_mem_set hq with hq | rfl
    · exact hsound q hq
    · exact hq'

/-! ### The state after reset -/

theorem resetWith_sound (cfg : Params) (sched : List Event) (tick : Nat) :
    State.Sound { State.resetWith cfg with sched := sched, tick := tick } := by
  refine ⟨List.length_replicate, List.length_replicate, List.length_replicate, List.length_replicate, fun r _ => ?_, rfl,
    fun q hq => ?_⟩
  · cases r <;> exact ⟨rfl, nofun⟩
  · rw [State.eq_reset_of_mem_resetWith_ports (cfg := cfg) hq]
    rfl

/-- A port of the state after reset. -/
theorem port_of_resetWith {cfg : Params} {p : Nat} {q : Port} (h : (State.resetWith cfg).ports[p]? = some q) :
    q = Port.reset := State.eq_reset_of_mem_resetWith_ports (List.mem_of_getElem? h)

@[simp] theorem resetWith_headw (cfg : Params) (r : RingId) (sd : Side) : (State.resetWith cfg).headw r sd = 0#32 := by
  rw [State.headw, State.resetWith_side]
  rfl

@[simp] theorem resetWith_tailview (cfg : Params) (r : RingId) (sd : Side) :
    (State.resetWith cfg).tailview r sd = 0#32 := by
  rw [State.tailview, State.resetWith_side]
  split <;> rfl

/-- No port of the state after reset holds a reservation. -/
theorem not_holds_resetWith {cfg : Params} {q : Port} (h : q ∈ (State.resetWith cfg).ports) (r : RingId) (sd : Side) :
    q.holds r sd = false := by
  rw [State.eq_reset_of_mem_resetWith_ports h]
  rfl

theorem resetWith_openCounted (cfg : Params) (r : RingId) (sd : Side) : (State.resetWith cfg).OpenCounted r sd := by
  have hno := fun q (hq : q ∈ (State.resetWith cfg).ports) => not_holds_resetWith hq r sd
  unfold State.OpenCounted
  split
  · have hcount : (State.resetWith cfg).ports.countP (fun q => q.holds r sd) = 0 :=
      List.countP_eq_zero.mpr fun q hq => by simp [hno q hq]
    rw [hcount, State.headcnt, State.tailcnt, State.resetWith_side]
    rfl
  · simp
  · have hnone : (State.resetWith cfg).ports.filter (fun q => q.holds r sd) = [] :=
      List.filter_eq_nil_iff.mpr fun q hq => by simp [hno q hq]
    rw [hnone]
    simp
  · simp

theorem resetWith_ringOk (cfg : Params) (r : RingId) : (State.resetWith cfg).RingOk r := by
  refine ⟨by simp [State.InOrder], fun sd => ⟨fun p q hq hh => ?_, resetWith_openCounted cfg r sd, fun p q hq => ?_⟩⟩
  · rw [port_of_resetWith hq] at hh
    cases hh
  · rw [port_of_resetWith hq]
    exact ⟨nofun, nofun⟩

theorem resetWith_filled (cfg : Params) (r : RingId) : (State.resetWith cfg).Filled r := by
  intro x hx
  simp at hx

theorem resetWith_registered (cfg : Params) : (State.resetWith cfg).registered = 0 :=
  List.countP_eq_zero.mpr fun i _ => by simp

theorem resetWith_tokensOrdered (cfg : Params) : (State.resetWith cfg).TokensOrdered := by
  refine ⟨BitVec.le_refl _, fun v hv => ?_, fun q hq => ?_⟩
  · rw [List.eq_of_mem_replicate hv]
    exact BitVec.le_refl _
  · rw [State.eq_reset_of_mem_resetWith_ports hq]
    rfl

theorem resetWith_registryOk (cfg : Params) : (State.resetWith cfg).RegistryOk := by
  refine ⟨?_, fun i _ hi => by simp at hi⟩
  rw [resetWith_registered]
  rfl

theorem resetWith_reservedZero (cfg : Params) : (State.resetWith cfg).ReservedZero := by
  refine ⟨fun r _ sd _ => ?_, resetStatus_high cfg, ?_⟩
  · rw [State.resetWith_side]
    unfold sideReserved
    split <;> rfl
  · change resetFault cfg &&& ~~~(7#64) = 0#64
    rw [resetFault_eq]
    split <;> rfl

/-- Settles O49: after reset every word is 0 and every port is idle. -/
theorem resetMeetsInvariants : Obligations.ResetMeetsInvariants := by
  intro cfg s
  refine ⟨resetWith_sound cfg [] 0, resetWith_tokensOrdered cfg, ⟨fun i _ hi => ?_, fun q hq i _ hi => ?_⟩,
    resetWith_registryOk cfg, resetWith_reservedZero cfg, fun r =>
      ⟨resetWith_ringOk cfg r, resetWith_filled cfg r, fun sd => ⟨⟨fun p q hq hh => ?_, ?_⟩, fun p q hq hh => ?_, ?_⟩⟩⟩
  · simp [s] at hi
  · simp [s] at hi
  · rw [port_of_resetWith hq] at hh
    cases hh
  · simp [s]
  · rw [port_of_resetWith hq] at hh
    cases hh
  · rw [State.resetWith_side]
    nofun

/-- Settles O48: a step that does not answer is a labelled line's, and a sound port's line stops for an unwritten slot
alone. -/
theorem soundNeverStops : Obligations.SoundNeverStops := by
  intro s hs
  obtain ⟨-, -, -, -, -, hst, hports⟩ := hs
  rcases step_answers_or_runs (not_lostCommand hports) with h | ⟨i, p, sched, tick, hruns, h⟩
  · exact .inl h
  · rw [h]
    exact (exec_answers_or_unwritten hruns hports hst).imp_right And.left

/-- Settles O47: by cases on what the step is. -/
theorem soundKept : Obligations.SoundKept := by
  intro s t hs h
  have hst := sound_statusBits hs
  obtain ⟨-, -, -, -, hmem, -, hports⟩ := id hs
  rw [State.storageOk_iff] at hmem
  cases step_cases h with
  | still sched tick freech => exact hs
  | reset cfg sched tick hev => exact resetWith_sound cfg sched tick
  | touch p q q' cur sched tick hq hphase hlat =>
    refine sound_of_ports_set (q' := q') hs rfl ⟨rfl, rfl, rfl, rfl⟩ rfl hmem ?_
    have hold := hports q (List.mem_of_getElem? hq)
    simpa only [portSound, Port.command, hphase, hlat] using hold
  | run i p sched tick _ hruns hexec =>
    obtain ⟨r, sd, hr⟩ := exec_ringStep hruns hports hst hexec
    exact sound_of_ports_set (s := s.withOwn p sched tick) hs hr.cfg (exec_regEffect hexec).shape hr.ports
      (hr.mem.storageOk hr.cfg hmem) (exec_portSound hruns hports hst hexec)

end Sys2Proof.Machine
end

section
/-! PROOFS. The registry (rules R29, R30) and the reserved parts of the registers (rules R21, R25, R33, R34). -/

namespace Sys2Proof.Machine

/-! ### The registry -/

/-- Counting once more after one number has been added. -/
theorem countP_range_insert {f f' : Nat → Bool} {i : Nat} (hi : f i = false) (hi' : f' i = true)
    (hother : ∀ j, j ≠ i → f' j = f j) (n : Nat) :
    (List.range n).countP f' = (List.range n).countP f + if i < n then 1 else 0 := by
  induction n with
  | zero => rfl
  | succ n ih =>
    rw [List.range_succ, List.countP_append, List.countP_append, ih, List.countP_singleton, List.countP_singleton]
    by_cases hn : n = i
    · subst hn
      simp [hi, hi']
    · rw [hother n hn]
      have hiff : i < n + 1 ↔ i < n := by omega
      simp only [hiff]
      omega

/-- The thread ids that a sound state has bits for. -/
theorem tid_lt_bitmap {s : State} {tid : U32} (hs : s.bitmap.length = nwords s.cfg)
    (h : decide (s.cfg.maxThreads ≤ tid) = false) :
    tid.toNat < s.cfg.maxThreads.toNat ∧ tid.toNat < 64 * s.bitmap.length := by
  have hlt : tid.toNat < s.cfg.maxThreads.toNat := by
    rw [decide_eq_false_iff_not, BitVec.le_def] at h
    omega
  refine ⟨hlt, ?_⟩
  rw [hs, nwords]
  omega

/-- The registry of a state with the same bitmap and thread count. -/
theorem registryOk_congr {s t : State} (hcfg : t.cfg = s.cfg) (hb : t.bitmap = s.bitmap)
    (hn : t.numThreads = s.numThreads) (h : s.RegistryOk) : t.RegistryOk := by
  have hregd : t.regd = s.regd := by
    funext i
    rw [State.regd, State.regd, hb]
  simpa only [State.RegistryOk, State.registered, hregd, hcfg, hb, hn] using h

theorem SameRegs.registryOk {u t : State} (h : SameRegs u t) (hcfg : t.cfg = u.cfg) (hu : u.RegistryOk) : t.RegistryOk := by
  obtain ⟨hb, hn, -, -⟩ := h.threads
  exact registryOk_congr hcfg hb hn hu

/-- Thread `i` joins the registry. -/
theorem registryOk_register {s : State} {i : Nat} (v : U64) (h : s.RegistryOk) (hr : s.regd i = false)
    (hi : i < s.cfg.maxThreads.toNat) (hb : i < 64 * s.bitmap.length) :
    (((s.setCnt i v).setRegd i).setNumThreads (s.numThreads + 1#32)).RegistryOk := by
  obtain ⟨hcount, hlow⟩ := h
  obtain ⟨hset, hother⟩ := setRegd_regd (s.setCnt i v) i hb
  have hlen : ((s.setCnt i v).setRegd i).bitmap.length = s.bitmap.length := by simp
  constructor
  · change s.numThreads + 1#32 = BitVec.ofNat 32
      ((List.range (64 * ((s.setCnt i v).setRegd i).bitmap.length)).countP ((s.setCnt i v).setRegd i).regd)
    rw [hlen, countP_range_insert (f := s.regd) hr hset hother, if_pos hb, hcount, BitVec.ofNat_add]
    rfl
  · intro j hj hjr
    by_cases hji : j = i
    · subst hji
      exact hi
    · exact hlow j (by simpa using hj) ((hother j hji).symm.trans hjr)

/-- Thread `i` leaves the registry. -/
theorem registryOk_unregister {s : State} {i : Nat} (h : s.RegistryOk) (hr : s.regd i = true)
    (hb : i < 64 * s.bitmap.length) : ((s.clearRegd i).setNumThreads (s.numThreads - 1#32)).RegistryOk := by
  obtain ⟨hcount, hlow⟩ := h
  obtain ⟨hclear, hother⟩ := clearRegd_regd s i hb
  have hlen : (s.clearRegd i).bitmap.length = s.bitmap.length := by simp
  constructor
  · change s.numThreads - 1#32 = BitVec.ofNat 32 ((List.range (64 * (s.clearRegd i).bitmap.length)).countP (s.clearRegd i).regd)
    have hmore := countP_range_insert (f' := s.regd) hclear hr (fun j hj => (hother j hj).symm) (64 * s.bitmap.length)
    rw [if_pos hb] at hmore
    rw [hlen, hcount, State.registered, hmore, BitVec.ofNat_add, BitVec.add_sub_cancel]
  · intro j hj hjr
    by_cases hji : j = i
    · rw [hji] at hjr
      exact absurd (hjr.symm.trans hclear) nofun
    · exact hlow j (by simpa using hj) ((hother j hji).symm.trans hjr)

theorem exec_registryOk {i : Instr} {s t : State} (hs : s.Sound) (h : Runs i s) (hr : s.RegistryOk)
    (ht : exec i s = .next t) : t.RegistryOk := by
  obtain ⟨-, hbitmap, -, -, -, -, hports⟩ := hs
  obtain ⟨hcfg, -⟩ := exec_onlyOwnPort ht
  cases exec_regEffect ht with
  | same h => exact h.regs.registryOk hcfg hr
  | token _ _ _ h => exact h.regs.registryOk hcfg hr
  | fault _ _ h _ => exact h.regs.registryOk hcfg hr
  | acked _ _ _ h => exact h.regs.registryOk hcfg hr
  | report _ _ h => exact h.regs.registryOk hcfg hr
  | lock _ _ _ h => exact h.regs.registryOk hcfg hr
  | kill _ _ h => exact h.regs.registryOk hcfg hr
  | register tid hi hat hr' hfrom =>
    subst hi
    obtain ⟨-, -, hop, -⟩ := h.busy hports hat
    obtain ⟨hlt, hb⟩ := tid_lt_bitmap hbitmap hop
    exact hfrom.regs.registryOk hcfg (registryOk_register _ hr hr' hlt hb)
  | unregister tid hi hat hr' hfrom =>
    subst hi
    obtain ⟨-, -, hop, -⟩ := h.busy hports hat
    obtain ⟨-, hb⟩ := tid_lt_bitmap hbitmap hop
    exact hfrom.regs.registryOk hcfg (registryOk_unregister hr hr' hb)

/-- Settles O51: `G1` sets one bit and counts it, `U1` clears one, and no other line touches either register. -/
theorem registryKept : Obligations.RegistryKept := by
  intro s t hs hr h
  cases step_cases h with
  | still sched tick freech => exact hr
  | touch p q q' cur sched tick hq hphase hlat => exact hr
  | reset cfg sched tick hev => exact resetWith_registryOk cfg
  | run i p sched tick _ hruns hexec => exact exec_registryOk (s := s.withOwn p sched tick) hs hruns hr hexec

/-! ### The reserved parts -/

/-- Nothing but the bits 3 to 0 of `STATUS` and the bits 2 to 0 of `FAULT` is set. -/
def State.FlagsReserved (s : State) : Prop := s.status &&& ~~~(15#64) = 0#64 ∧ s.fault &&& ~~~(7#64) = 0#64

theorem SameRegs.flagsReserved {u t : State} (h : SameRegs u t) (hu : u.FlagsReserved) : t.FlagsReserved := by
  obtain ⟨hstatus, hfault⟩ := h.flags
  rw [State.FlagsReserved, hstatus, hfault]
  exact hu

theorem RegEffect.flagsReserved {i : Instr} {s t : State} (h : RegEffect i s t) (hs : s.FlagsReserved) :
    t.FlagsReserved := by
  obtain ⟨hstatus, hfault⟩ := id hs
  cases h with
  | same h => exact h.regs.flagsReserved hs
  | token _ _ _ h => exact h.regs.flagsReserved hs
  | acked _ _ _ h => exact h.regs.flagsReserved hs
  | register _ _ _ _ h => exact h.regs.flagsReserved hs
  | unregister _ _ _ _ h => exact h.regs.flagsReserved hs
  | report _ _ h => exact h.regs.flagsReserved hs
  | lock _ _ _ h => exact h.regs.flagsReserved hs
  | fault f _ h _ =>
    refine h.regs.flagsReserved ⟨hstatus, ?_⟩
    have hmask : f.mask &&& ~~~(7#64) = 0#64 := by cases f <;> rfl
    change (s.fault ||| f.mask) &&& ~~~(7#64) = 0#64
    rw [BitVec.and_or_distrib_right, hfault, hmask]
    rfl
  | kill _ _ h =>
    refine h.regs.flagsReserved ⟨?_, hfault⟩
    change s.status &&& ~~~(8#64) &&& ~~~(15#64) = 0#64
    rw [BitVec.and_assoc, BitVec.and_comm (~~~(8#64)), ← BitVec.and_assoc, hstatus, BitVec.zero_and]

@[simp] theorem loOf_pack (lo hi : U32) : loOf (pack lo hi) = lo :=
  BitVec.extractLsb'_append_eq_right

@[simp] theorem hiOf_pack (lo hi : U32) : hiOf (pack lo hi) = hi :=
  BitVec.extractLsb'_append_eq_left

@[simp] theorem loOf_storeLo (w : U64) (v : U32) : loOf (storeLo w v) = v := loOf_pack v _

@[simp] theorem hiOf_storeLo (w : U64) (v : U32) : hiOf (storeLo w v) = hiOf w := hiOf_pack v _

/-- What `sideReserved` says under a discipline. -/
def wordsReserved (d : Sync) (w : SideRegs) : Prop :=
  match d with
  | .st => hiOf w.a = 0#32 ∧ hiOf w.b = 0#32 ∧ (w.sown.valid = true ∨ w.sown = Owner.free)
  | .mt => hiOf w.a = 0#32 ∧ hiOf w.b = 0#32 ∧ w.sown = Owner.free
  | .hts => w.b = 0#64 ∧ w.sown = Owner.free
  | .rts => w.sown = Owner.free

theorem sideReserved_iff (cfg : Params) (r : RingId) (sd : Side) (w : SideRegs) :
    sideReserved cfg r sd w = true ↔ wordsReserved (syncOf cfg r sd) w := by
  unfold sideReserved wordsReserved
  cases syncOf cfg r sd <;> simp [and_assoc]

theorem Takes.reserved {d : Sync} {l : Label} {x : Latches} {w : SideRegs} {a : U64} (h : Takes d l x w.a a)
    (hw : wordsReserved d w) : wordsReserved d { w with a := a } := by
  cases h <;> simpa [wordsReserved] using hw

theorem Gives.reserved {d : Sync} {l : Label} {x : Latches} {w w' : SideRegs} (h : Gives d l x w w')
    (hw : wordsReserved d w) : wordsReserved d w' := by
  cases h with
  | st =>
    obtain ⟨ha, hb, -⟩ := hw
    exact ⟨ha, by simpa using hb, .inr rfl⟩
  | mt => simpa [wordsReserved] using hw
  | _ => exact hw

theorem Move.reserved {d : Sync} {p : Nat} {av : U32 → U32} {a a' : Stage} {x x' : Latches} {w w' : SideRegs}
    (h : Move d p av a x w a' x' w') (hw : wordsReserved d w) : wordsReserved d w' := by
  cases h with
  | own b x x' w hd hv hn hbeh hoh =>
    subst hd
    obtain ⟨ha, hb, -⟩ := hw
    exact ⟨ha, hb, .inl rfl⟩
  | ownNothing b x x' w hd =>
    subst hd
    obtain ⟨ha, hb, -⟩ := hw
    exact ⟨ha, hb, .inr rfl⟩
  | take l l' b x w a hk htakes hl' => exact htakes.reserved hw
  | takeNothing l b x x' w a hk htakes => exact htakes.reserved hw
  | give l b x x' w w' hgives => exact hgives.reserved hw
  | giveNext l x x' w w' hgives hn hbeh => exact hgives.reserved hw
  | _ => exact hw

theorem RingStep.side_other {s t : State} {q' : Port} {r r' : RingId} {sd sd' : Side} (h : RingStep s t q' r sd)
    (hne : (r', sd') ≠ (r, sd)) : t.side r' sd' = s.side r' sd' := by
  refine h.others r' sd' ?_
  by_cases hr : r' = r
  · exact .inr fun hsd => hne (by rw [hr, hsd])
  · exact .inl hr

theorem RingStep.reserved {s t : State} {q' : Port} {r : RingId} {sd : Side} (h : RingStep s t q' r sd) (r' : RingId)
    (sd' : Side) (hs : sideReserved s.cfg r' sd' (s.side r' sd') = true) :
    sideReserved t.cfg r' sd' (t.side r' sd') = true := by
  rw [h.cfg]
  by_cases hne : (r', sd') = (r, sd)
  · cases hne
    rw [sideReserved_iff] at hs ⊢
    exact h.move.reserved hs
  · rw [h.side_other hne]
    exact hs

/-- Settles O52: the flags by what each line does to the registers, the words of the sides by `Move`. -/
theorem reservedZeroKept : Obligations.ReservedZeroKept := by
  intro s t hs hr h
  obtain ⟨hsides, hflags⟩ := hr
  obtain ⟨-, -, -, -, -, hst, hports⟩ := hs
  cases step_cases h with
  | still sched tick freech => exact ⟨hsides, hflags⟩
  | touch p q q' cur sched tick hq hphase hlat => exact ⟨hsides, hflags⟩
  | reset cfg sched tick hev => exact resetWith_reservedZero cfg
  | run i p sched tick _ hruns hexec =>
    obtain ⟨r, sd, hring⟩ := exec_ringStep hruns hports hst hexec
    exact ⟨fun r' hr' sd' hsd' => hring.reserved r' sd' (hsides r' hr' sd' hsd'),
      (exec_regEffect hexec).flagsReserved hflags⟩

end Sys2Proof.Machine
end

section
/-! PROOFS. `ACKED_TOKEN`, every counter and every token that a port is about to store stay at most `TOKEN` (rules R28, R31,
R194, R197, R204). No soundness of the state is needed: a line that is not its command's stops. -/

namespace Sys2Proof.Machine

/-! ### The tokens in a port's latches -/

/-- The token that the line `l` stores, or takes as a minimum, was once current. -/
def tokensAt (tok : U64) (l : Label) (x : Latches) : Prop :=
  match l with
  | .q2 => x.qt ≤ tok
  | .y3 => x.qt ≤ tok
  | .v2 => x.seen = true → x.minc ≤ tok
  | .v3 => x.seen = true → x.minc ≤ tok
  | .v4 => x.minc ≤ tok
  | _ => True

theorem portTokens_idle {s : State} {q : Port} (h : q.phase = .idle) : portTokens s q = true := by
  simp only [portTokens, h]

theorem portTokens_busy {s : State} {q : Port} {l : Label} {st : List Seq} (h : q.phase = .busy l st) :
    portTokens s q = true ↔ tokensAt s.token l q.lat := by
  simp only [portTokens, h]
  cases l <;> simp [tokensAt, Decidable.imp_iff_not_or]

theorem tokensAt_mono {tok tok' : U64} {l : Label} {x : Latches} (h : tokensAt tok l x) (hle : tok ≤ tok') :
    tokensAt tok' l x := by
  cases l <;> first
    | exact trivial
    | exact BitVec.le_trans h hle
    | exact fun hs => BitVec.le_trans (h hs) hle

theorem portTokens_mono {s t : State} {q : Port} (h : portTokens s q = true) (hle : s.token ≤ t.token) :
    portTokens t q = true := by
  cases hp : q.phase with
  | idle => exact portTokens_idle hp
  | busy l st =>
    rw [portTokens_busy hp] at h ⊢
    exact tokensAt_mono h hle

/-- However the line leaves its sub-sequence: a line that it goes to has an old enough token in its latches, and a command
that it ends leaves the port idle. -/
abbrev Flow.TokensOk (x : Flow) : Prop :=
  x.Sat (fun l _ u => tokensAt u.token l u.lat) (fun _ => True) (fun u => u.phase = .idle) fun _ => True

theorem Flow.TokensOk.within {x : Flow} {q : Seq} {k : State → Flow} (h : x.TokensOk) (hk : ∀ u, (k u).TokensOk) :
    (x.within q k).TokensOk :=
  Flow.Sat.within h (fun _ _ _ => id) (fun u _ => hk u) (fun _ => id) fun _ => id

/-- A response leaves the granted port idle, if there is one. -/
theorem phase_respondWith_any (s : State) (st : Status) (n : U32) (v : U64) (pl : List Element) :
    (s.respondWith st n v pl).phase = .idle := by
  by_cases g : s.granted
  · exact phase_respondWith g st n v pl
  · have hlen : ¬ (s.respondWith st n v pl).granted := by simpa [State.granted] using g
    rw [State.phase, State.port, List.getD_eq_default _ _ (by simpa [State.granted] using hlen)]
    rfl

theorem tokensOk_answer (st : Status) (s : State) : (answer st s).TokensOk := phase_respondWith_any s st _ _ _

theorem tokensOk_respond (st : Status) (n : U32) (v : U64) (s : State) : (Flow.ended (s.respond st n v)).TokensOk :=
  phase_respondWith_any s st n v []

/-! ### The sub-sequences -/

theorem reserveAvail_tokensOk {r : RingId} {sd : Side} {next : Label} {s : State} (h : next ∈ [Label.m3, .h3, .t4]) :
    (reserveAvail r sd next s).TokensOk := by
  simp only [List.mem_cons, List.not_mem_nil, or_false] at h
  simp only [reserveAvail]
  rcases h with rfl | rfl | rfl <;> split <;> trivial

theorem reserveLine_tokensOk (r : RingId) (sd : Side) (l : Label) (s : State) : (reserveLine r sd l s).TokensOk := by
  unfold reserveLine
  split
  · trivial
  · exact reserveAvail_tokensOk (by decide)
  · unfold reserveCasMt
    split <;> trivial
  · unfold reserveOwn
    split
    · exact phase_respondWith_any _ _ _ _ _
    · trivial
  · simp only [reserveAvailSt]
    split <;> trivial
  · trivial
  · simp only [reserveLoadHts]
    split <;> trivial
  · exact reserveAvail_tokensOk (by decide)
  · unfold reserveCasHts
    split <;> trivial
  · trivial
  · unfold reserveWaitRts
    split <;> trivial
  · exact reserveAvail_tokensOk (by decide)
  · unfold reserveCasRts
    split <;> trivial
  · trivial

theorem copyLine_tokensOk (r : RingId) (sd : Side) (s : State) : (copyLine r sd s).TokensOk := by
  unfold copyLine
  split
  · cases s.copyIn r s.lat.k.toNat <;> trivial
  · cases s.copyOut r s.lat.k.toNat <;> trivial

theorem publishLine_tokensOk (r : RingId) (sd : Side) (l : Label) (s : State) : (publishLine r sd l s).TokensOk := by
  unfold publishLine
  split
  · unfold publishTurn
    split <;> trivial
  · trivial
  · trivial
  · trivial
  · trivial
  · trivial
  · unfold publishCasRts
    split <;> trivial
  · trivial

theorem cancelLine_tokensOk (r : RingId) (sd : Side) (l : Label) (s : State) : (cancelLine r sd l s).TokensOk := by
  unfold cancelLine
  split <;> trivial

theorem ringopReserved_tokensOk (s : State) : (ringopReserved s).TokensOk := by
  unfold ringopReserved
  split <;> trivial

theorem ringopLine_tokensOk (r : RingId) (sd : Side) (l : Label) (st : List Seq) (s : State) :
    (ringopLine r sd l st s).TokensOk := by
  unfold ringopLine
  split
  · exact (reserveLine_tokensOk r sd l s).within ringopReserved_tokensOk
  · refine (copyLine_tokensOk r sd s).within fun u => ?_
    cases syncOf u.cfg r sd <;> trivial
  · exact (publishLine_tokensOk r sd l s).within fun u => trivial
  · trivial

theorem countLine_tokensOk (r : RingId) (l : Label) (s : State) : (countLine r l s).TokensOk := by
  unfold countLine
  split <;> trivial

theorem checkNext_tokensOk {s : State} (g : s.granted) (h : s.lat.seen = true → s.lat.minc ≤ s.token) :
    (checkNext s).TokensOk := by
  have hlat : (s.updLat fun l => { l with wi := l.wi + 1#32 }).lat = { s.lat with wi := s.lat.wi + 1#32 } :=
    State.updLat_lat s _ g
  unfold checkNext
  split
  · simp only
    split
    · unfold checkFin
      split
      · rename_i hseen
        rw [hlat] at hseen
        change Latches.minc _ ≤ s.token
        rw [hlat]
        exact h hseen
      · trivial
    · change Latches.seen _ = true → Latches.minc _ ≤ s.token
      rw [hlat]
      exact h
  · exact h

/-- A thread that passes has a counter that is at most `TOKEN`. -/
theorem minc_passThread_le {x : Latches} {c tok : U64} (h : x.seen = true → x.minc ≤ tok) (hc : c ≤ tok) :
    (x.passThread c).minc ≤ tok := by
  unfold Latches.passThread
  dsimp only
  split
  · exact hc
  · rename_i hkeep
    refine h ?_
    simp only [Bool.or_eq_true, not_or, Bool.not_eq_true', Bool.not_eq_false] at hkeep
    exact hkeep.1

theorem checkLine_tokensOk {l : Label} {s : State} (g : s.granted) (hcnt : ∀ i, s.cntOf i ≤ s.token)
    (h : tokensAt s.token l s.lat) : (checkLine l s).TokensOk := by
  unfold checkLine
  split
  · unfold checkFast
    split
    · trivial
    · intro hseen
      rw [State.updLat_lat s _ g] at hseen
      cases hseen
  · refine checkNext_tokensOk (updLat_granted g _) ?_
    rw [State.updLat_lat s _ g]
    exact h
  · simp only [checkThread]
    split
    · split
      · exact h
      · trivial
    · refine checkNext_tokensOk (updLat_granted g _) fun _ => ?_
      rw [State.updLat_lat s _ g]
      exact minc_passThread_le h (hcnt _)
  · trivial
  · trivial

theorem reclaimLoop_tokensOk (s : State) : (reclaimLoop s).TokensOk := by
  unfold reclaimLoop
  split <;> trivial

theorem reclaimLine_tokensOk {l : Label} {st : List Seq} {s : State} (g : s.granted)
    (hcnt : ∀ i, s.cntOf i ≤ s.token) (h : tokensAt s.token l s.lat) : (reclaimLine l st s).TokensOk := by
  unfold reclaimLine
  split
  · refine (reserveLine_tokensOk _ _ l s).within fun u => ?_
    unfold reclaimReserved
    split <;> trivial
  · unfold reclaimRead
    cases s.memRead .defer (addrOf s.cfg .defer s.lat.oh) (esize s.cfg .defer) <;> trivial
  · exact reclaimLoop_tokensOk _
  · refine (checkLine_tokensOk g hcnt h).within fun u => ?_
    unfold reclaimChecked
    split <;> trivial
  · exact (cancelLine_tokensOk _ _ l s).within fun u => trivial
  · trivial

/-! ### What follows a sub-sequence -/

theorem dqEnqDone_tokensOk (s : State) : (dqEnqDone s).TokensOk := tokensOk_respond _ _ _ s

theorem afterReclaimOf_tokensOk {i : Instr} {k : State → Flow} (h : afterReclaimOf i = some k) (u : State) :
    (k u).TokensOk := by
  cases i <;> cases h
  · exact dqEnqDone_tokensOk u
  · exact tokensOk_respond _ _ _ u
  · unfold dqDeletePassed
    split
    · exact tokensOk_respond _ _ _ u
    · trivial

theorem reclaimCall_tokensOk {i : Instr} {k : State → Flow} (h : afterReclaimOf i = some k) (lim : Limit) (u : State) :
    ((reclaimCall lim u).within .reclaimseq k).TokensOk :=
  (reclaimLoop_tokensOk _).within (afterReclaimOf_tokensOk h)

theorem afterRingopOf_tokensOk (i : Instr) (u : State) : (afterRingopOf i u).TokensOk := by
  unfold afterRingopOf
  rcases ringopUse i with _ | ⟨_ | _, _ | _⟩
  · trivial
  · exact tokensOk_respond _ _ _ u
  · exact phase_respondWith_any u _ _ _ _
  · trivial
  · trivial

theorem afterCountOf_tokensOk (i : Instr) (u : State) : (afterCountOf i u).TokensOk := by
  cases i with
  | ringCount => exact tokensOk_respond _ _ _ u
  | ringFree => exact tokensOk_respond _ _ _ u
  | dqEnq =>
    change (dqEnqCounted u).TokensOk
    unfold dqEnqCounted
    split
    · exact reclaimCall_tokensOk (i := .dqEnq) rfl _ u
    · exact dqEnqDone_tokensOk u
  | _ => trivial

theorem afterCheckOf_tokensOk {i : Instr} {k : State → Flow} (h : afterCheckOf i = some k) (u : State) :
    (k u).TokensOk := by
  cases i <;> cases h <;> exact tokensOk_respond _ _ _ u

/-! ### The lines of a command's own code -/

theorem onlyAt_tokensOk {first l : Label} {x : Flow} (h : x.TokensOk) : (onlyAt first l x).TokensOk := by
  unfold onlyAt
  split
  · exact h
  · trivial

theorem ifAlive_tokensOk {s : State} {k : State → Flow} (h : (k s).TokensOk) : (ifAlive s k).TokensOk := by
  unfold ifAlive
  split
  · exact h
  · exact tokensOk_answer _ s

theorem tkinc_tokensOk {s : State} {k : State → Flow} (h : ∀ u, (k u).TokensOk) : (tkinc s k).TokensOk := by
  unfold tkinc
  split
  · exact phase_respondWith_any _ _ _ _ _
  · exact h _

theorem ownLine_tokensOk {i : Instr} {l : Label} {s : State} (g : s.granted) : (ownLine i l s).TokensOk := by
  have hqt : (s.updLat fun x => { x with qt := s.token }).lat.qt = s.token := by rw [State.updLat_lat s _ g]
  cases i with
  | thrReg tid =>
    refine onlyAt_tokensOk ?_
    unfold regLine
    split
    · exact tokensOk_answer _ _
    · split <;> exact tokensOk_answer _ _
  | thrUnreg tid =>
    refine onlyAt_tokensOk ?_
    unfold unregLine
    split
    · exact tokensOk_answer _ _
    · split <;> exact tokensOk_answer _ _
  | quiescent tid =>
    simp only [ownLine]
    split
    · simp only [quiescentProbe]
      split
      · exact tokensOk_answer _ _
      · split
        · exact tokensOk_answer _ _
        · exact BitVec.le_of_eq hqt
    · exact onlyAt_tokensOk (tokensOk_answer _ _)
  | start => exact onlyAt_tokensOk (tkinc_tokensOk fun u => tokensOk_respond _ _ _ u)
  | sync tid =>
    simp only [ownLine]
    split
    · simp only [syncBegin]
      split
      · exact tokensOk_answer _ _
      · refine tkinc_tokensOk fun u => ?_
        split <;> trivial
    · split
      · exact BitVec.le_of_eq hqt
      · exact onlyAt_tokensOk trivial
  | rdLock tid =>
    refine onlyAt_tokensOk ?_
    unfold lockLine
    split <;> exact tokensOk_answer _ _
  | rdUnlock tid =>
    refine onlyAt_tokensOk ?_
    unfold unlockLine
    split <;> exact tokensOk_answer _ _
  | dqEnq =>
    refine onlyAt_tokensOk (ifAlive_tokensOk (tkinc_tokensOk fun u => ?_))
    change tokensAt _ (reserveFirst (syncOf u.cfg .defer .prod)) _
    cases syncOf u.cfg .defer .prod <;> trivial
  | dqReclaim n => exact onlyAt_tokensOk (ifAlive_tokensOk (reclaimCall_tokensOk (i := .dqReclaim n) rfl _ s))
  | dqDelete =>
    simp only [ownLine]
    split
    · exact ifAlive_tokensOk (reclaimCall_tokensOk (i := .dqDelete) rfl _ s)
    · exact onlyAt_tokensOk (tokensOk_respond _ _ _ _)
  | csrRd reg idx =>
    refine onlyAt_tokensOk ?_
    unfold csrLine
    split
    · exact tokensOk_respond _ _ _ s
    · trivial
  | _ => trivial

theorem lineFlow_tokensOk {i : Instr} {l : Label} {st : List Seq} {s : State} (g : s.granted)
    (hcnt : ∀ i, s.cntOf i ≤ s.token) (h : tokensAt s.token l s.lat) : (lineFlow i l st s).TokensOk := by
  unfold lineFlow
  split
  · exact ownLine_tokensOk g
  · split
    · exact (ringopLine_tokensOk _ _ l _ s).within (afterRingopOf_tokensOk i)
    · trivial
  · split
    · exact (countLine_tokensOk _ l s).within (afterCountOf_tokensOk i)
    · trivial
  · split
    · rename_i k hk
      exact (checkLine_tokensOk g hcnt h).within (afterCheckOf_tokensOk hk)
    · trivial
  · split
    · rename_i k hk
      exact (reclaimLine_tokensOk g hcnt h).within (afterReclaimOf_tokensOk hk)
    · trivial
  · trivial

/-! ### The step -/

theorem cntOf_le {s : State} (h : ∀ v ∈ s.cnt, v ≤ s.token) (i : Nat) : s.cntOf i ≤ s.token := by
  rw [State.cntOf, List.getD_eq_getElem?_getD]
  cases hv : s.cnt[i]? with
  | none => exact BitVec.le_def.mpr (Nat.zero_le _)
  | some v => exact h v (List.mem_of_getElem? hv)

/-- A command's first line stores no token. -/
theorem tokensAt_firstLine (cfg : Params) (i : Instr) (tok : U64) (x : Latches) :
    tokensAt tok (firstLine cfg i).1 x := by
  cases i with
  | enqBulk n => cases h : cfg.psync0 <;> simp only [firstLine, h] <;> trivial
  | enqBurst n => cases h : cfg.psync0 <;> simp only [firstLine, h] <;> trivial
  | deqBulk n => cases h : cfg.csync0 <;> simp only [firstLine, h] <;> trivial
  | deqBurst n => cases h : cfg.csync0 <;> simp only [firstLine, h] <;> trivial
  | _ => trivial

/-- The tokens of the port that the step leaves. -/
theorem exec_portTokens {i : Instr} {s t : State} (h : s.TokensOrdered) (ht : exec i s = .next t) :
    portTokens t t.port = true := by
  obtain ⟨-, hcnt, hports⟩ := h
  have g := granted_of_exec ht
  cases hp : s.phase with
  | idle =>
    obtain ⟨m, rest, -, ha⟩ := exec_accepts hp ht
    cases ha with
    | answered st => exact portTokens_idle (phase_respondWith_any _ _ _ _ _)
    | entered _ _ =>
      have glatch := (Carries.updLat s.popCmd fun _ => { Latches.reset with cmd := m.word, src := m.payload }).granted
        ((popCmd_carries s).granted g)
      rw [portTokens_busy (phase_setPhase ((enterState_carries i (s.popCmd.latch m)).granted glatch) _)]
      exact tokensAt_firstLine s.cfg i _ _
  | busy l st =>
    have hown : tokensAt s.token l s.lat := (portTokens_busy hp).mp (hports _ (port_mem g))
    have hflow := lineFlow_tokensOk (i := i) (st := st) g (cntOf_le hcnt) hown
    rw [exec_busy ⟨g, hp⟩] at ht
    rcases Flow.outcome_next ht with ⟨l', st', u, hx, rfl⟩ | hx
    · have hk := lineFlow_keepsOthers i l st s
      rw [hx] at hflow hk
      have gu := Machine.KeepsOthers.granted hk g
      rw [portTokens_busy (phase_setPhase gu _)]
      have hlat := setPhase_lat gu (.busy l' st')
      change tokensAt u.token l' (u.setPhase (.busy l' st')).lat
      rw [hlat]
      exact hflow
    · rw [hx] at hflow
      exact portTokens_idle hflow

/-- The registers that hold tokens, but for the ports. -/
def State.RegistersOrdered (s : State) : Prop := s.acked ≤ s.token ∧ ∀ v ∈ s.cnt, v ≤ s.token

theorem SameRegs.ordered {u t : State} (h : SameRegs u t) (hu : u.RegistersOrdered) : t.RegistersOrdered := by
  obtain ⟨htoken, hacked⟩ := h.tokens
  obtain ⟨-, -, hcnt, -⟩ := h.threads
  rw [State.RegistersOrdered, htoken, hacked, hcnt]
  exact hu

theorem RegistersOrdered.setCnt {s : State} (h : s.RegistersOrdered) {v : U64} (hv : v ≤ s.token) (i : Nat) :
    (s.setCnt i v).RegistersOrdered := by
  refine ⟨h.1, fun w hw => ?_⟩
  rcases List.mem_or_eq_of_mem_set hw with hw | rfl
  · exact h.2 w hw
  · exact hv

/-- The token registers after a step, and that `TOKEN` has not gone back. -/
theorem RegEffect.ordered {i : Instr} {s t : State} (g : s.granted) (hs : s.TokensOrdered) (h : RegEffect i s t) :
    t.RegistersOrdered ∧ s.token ≤ t.token := by
  obtain ⟨hacked, hcnt, hports⟩ := hs
  have hreg : s.RegistersOrdered := ⟨hacked, hcnt⟩
  have hport := hports _ (port_mem g)
  have hle : ∀ u, SameRegs u t → u.token = s.token → s.token ≤ t.token := fun u hu htok =>
    BitVec.le_of_eq (hu.tokens.1.trans htok).symm
  cases h with
  | same h => exact ⟨h.regs.ordered hreg, hle s h.regs rfl⟩
  | fault f _ h _ => exact ⟨h.regs.ordered hreg, hle _ h.regs rfl⟩
  | lock tid v _ h => exact ⟨h.regs.ordered hreg, hle _ h.regs rfl⟩
  | kill _ _ h => exact ⟨h.regs.ordered hreg, hle _ h.regs rfl⟩
  | unregister tid _ _ _ h => exact ⟨h.regs.ordered hreg, hle _ h.regs rfl⟩
  | token _ hbelow _ h =>
    have hgrow : s.token ≤ s.token + 1#64 := by
      rw [BitVec.le_def, BitVec.toNat_add, BitVec.toNat_ofNat]
      omega
    exact ⟨h.regs.ordered ⟨BitVec.le_trans hacked hgrow, fun v hv => BitVec.le_trans (hcnt v hv) hgrow⟩,
      BitVec.le_trans hgrow (BitVec.le_of_eq h.regs.tokens.1.symm)⟩
  | acked st _ hat h =>
    have hminc : s.lat.minc ≤ s.token := (portTokens_busy hat).mp hport
    refine ⟨h.regs.ordered ⟨?_, hcnt⟩, hle _ h.regs rfl⟩
    change (if s.acked < s.lat.minc then s.lat.minc else s.acked) ≤ s.token
    split
    · exact hminc
    · exact hacked
  | register tid _ _ _ h =>
    exact ⟨h.regs.ordered (RegistersOrdered.setCnt hreg (BitVec.le_refl _) _), hle _ h.regs rfl⟩
  | report tid hat h =>
    have hqt : s.lat.qt ≤ s.token := by
      rcases hat with ⟨-, hat⟩ | ⟨-, hat⟩ <;> exact (portTokens_busy hat).mp hport
    exact ⟨h.regs.ordered (RegistersOrdered.setCnt hreg hqt _), hle _ h.regs rfl⟩

/-- Settles O50: `TOKEN` only grows, and a line that stores a token has loaded it from `TOKEN`, from a counter or as a minimum of
counters. -/
theorem tokensOrderedKept : Obligations.TokensOrderedKept := by
  intro s t hs h
  cases step_cases h with
  | still sched tick freech => exact hs
  | reset cfg sched tick hev => exact resetWith_tokensOrdered cfg
  | touch p q q' cur sched tick hq hphase hlat =>
    obtain ⟨hacked, hcnt, hports⟩ := hs
    refine ⟨hacked, hcnt, fun x hx => ?_⟩
    rcases List.mem_or_eq_of_mem_set hx with hx | rfl
    · exact hports x hx
    · have hold := hports q (List.mem_of_getElem? hq)
      simp only [portTokens, ← hphase, ← hlat] at hold
      exact hold
  | run i p sched tick _ hruns hexec =>
    obtain ⟨⟨hacked, hcnt⟩, hle⟩ := (exec_regEffect hexec).ordered hruns.1 hs
    refine ⟨hacked, hcnt, fun x hx => ?_⟩
    rw [(exec_onlyOwnPort hexec).ports_eq hruns.1] at hx
    rcases List.mem_or_eq_of_mem_set hx with hx | rfl
    · obtain ⟨-, -, hports⟩ := hs
      exact portTokens_mono (hports x hx) hle
    · exact exec_portTokens (s := s.withOwn p sched tick) hs hexec

end Sys2Proof.Machine
end

section
/-! PROOFS. The exclusive disciplines: under `HTS` and under `ST` at most one port has a reservation open on a side (rules R24,
R25, R126, R127, R141). The reservations of a side are read as the relation `Held`, and a step as what it does to it. -/

namespace Sys2Proof.Machine

/-! ### The stages that a sound port can be in -/

/-- The stages that are lines of the discipline `d`; a reclaim pass works on a side under `HTS`. -/
def StageLegal (d : Sync) : Stage → Prop
  | .out => True
  | .reserving l b => l ∈ reserveLabels d ∧ (b = true → d = .hts)
  | .holding l false => l = .cp ∨ l ∈ publishLabels d
  | .holding l true => d = .hts ∧ l ∈ [Label.x1, .x2, .v1, .v2, .v3, .v4, .h5]

theorem ringopStage_legal {cfg : Params} {r : RingId} {sd : Side} {l : Label} {inner : List Seq}
    (h : ringopLegal cfg r sd l inner = true) : StageLegal (syncOf cfg r sd) (ringopStage l inner) := by
  unfold ringopLegal at h
  split at h
  · exact ⟨of_decide_eq_true h, nofun⟩
  · exact .inl (of_decide_eq_true h)
  · exact .inr (of_decide_eq_true h)
  · cases h

theorem passStage_legal {l : Label} {inner : List Seq} (h : reclaimLegal l inner = true) :
    StageLegal .hts (passStage l inner) := by
  unfold reclaimLegal at h
  split at h
  · have hl : l ∈ [Label.x1, .x2] := of_decide_eq_true h
    refine ⟨rfl, ?_⟩
    simp only [List.mem_cons, List.not_mem_nil, or_false] at hl ⊢
    tauto
  · exact ⟨of_decide_eq_true h, fun _ => rfl⟩
  · have hl : l ∈ [Label.v1, .v2, .v3, .v4] := of_decide_eq_true h
    refine ⟨rfl, ?_⟩
    simp only [List.mem_cons, List.not_mem_nil, or_false] at hl ⊢
    tauto
  · obtain rfl : l = .h5 := of_decide_eq_true h
    exact ⟨rfl, by decide⟩
  · cases h

/-- A sound port stands, on every side, at a line of that side's discipline. -/
theorem stage_legal {s : State} {q : Port} (h : portSound s q = true) (r : RingId) (sd : Side) :
    StageLegal (syncOf s.cfg r sd) (q.stage r sd) := by
  cases hp : q.phase with
  | idle =>
    have hout : q.stage r sd = .out := by
      unfold Port.stage
      rw [hp]
      split <;> rfl
    rw [hout]
    trivial
  | busy l st =>
    cases hc : q.command with
    | none => simp [portSound, hp, hc] at h
    | some i =>
      have hlegal : lineLegal s.cfg i l st = true := by
        simp only [portSound, hp, hc, Bool.and_eq_true] at h
        exact h.2
      have hstage : q.stage r sd = stageOf i r sd (.busy l st) := by rw [Port.stage, hc, hp]
      rw [hstage]
      cases legalLine_of_lineLegal hlegal with
      | own _ => trivial
      | count _ _ _ => trivial
      | check _ _ _ => trivial
      | ringop r0 sd0 inner hi hr =>
        by_cases hne : (r, sd) = (r0, sd0)
        · cases hne
          rw [stageOf_ringop hi]
          exact ringopStage_legal hr
        · rw [stageOf_ringop_other hi (by rw [OtherSide]; by_contra hcon; simp_all)]
          trivial
      | reclaim k inner hi hr =>
        by_cases hne : (r, sd) = (RingId.defer, Side.cons)
        · cases hne
          rw [stageOf_pass]
          exact passStage_legal hr
        · rw [stageOf_pass_other (by rw [OtherSide]; by_contra hcon; simp_all)]
          trivial

/-- The phase of a port that reserves. -/
theorem phase_of_reserving {q : Port} {r : RingId} {sd : Side} {l : Label} {b : Bool} (h : q.stage r sd = .reserving l b) :
    q.phase = .busy l (if b then [.reclaimseq, .reserve] else [.ringop, .reserve]) := by
  unfold Port.stage stageOf at h
  repeat' split at h
  all_goals simp_all

/-- The phase of a port that holds a reservation. -/
theorem phase_of_holding {q : Port} {r : RingId} {sd : Side} {l : Label} {b : Bool} (h : q.stage r sd = .holding l b) :
    ∃ inner, q.phase = .busy l ((if b then .reclaimseq else .ringop) :: inner) ∧
      (b = false → inner = [.copy] ∨ inner = [.publish]) := by
  unfold Port.stage stageOf at h
  repeat' split at h
  all_goals simp_all

theorem isReserving_iff {a : Stage} : a.isReserving = true ↔ ∃ l b, a = .reserving l b := by
  cases a <;> simp

theorem isHolding_iff {a : Stage} : a.isHolding = true ↔ ∃ l b, a = .holding l b := by
  cases a <;> simp

/-! ### One step, seen from any side -/

/-- The granted port of `s` becomes `q'` in `t` by a move on side `(r, sd)`. -/
structure SideStep (s t : State) (q' : Port) (r : RingId) (sd : Side) : Prop where
  granted : s.granted
  cfg : t.cfg = s.cfg
  ports : t.ports = s.ports.set s.cur q'
  move : MoveIn s r sd (s.port.stage r sd) s.lat (s.side r sd) (q'.stage r sd) q'.lat (t.side r sd)

/-- The move, under a discipline that is known. -/
theorem SideStep.move_of_sync {s t : State} {q' : Port} {r : RingId} {sd : Side} {d : Sync} (h : SideStep s t q' r sd)
    (hd : syncOf s.cfg r sd = d) :
    Move d s.cur (fun oh => avail s.cfg r sd oh (s.tailview r sd.opp)) (s.port.stage r sd) s.lat (s.side r sd)
      (q'.stage r sd) q'.lat (t.side r sd) := by
  subst hd
  exact h.move

theorem otherSide_of_ne {r r' : RingId} {sd sd' : Side} (h : (r', sd') ≠ (r, sd)) : OtherSide r sd r' sd' := by
  by_cases hr : r' = r
  · exact .inr fun hsd => h (by rw [hr, hsd])
  · exact .inl hr

/-- On every side but one, the port is outside before and after. -/
theorem RingStep.sideStep {s t : State} {q' : Port} {r : RingId} {sd : Side} (h : RingStep s t q' r sd) (r' : RingId)
    (sd' : Side) : SideStep s t q' r' sd' := by
  refine ⟨h.granted, h.cfg, h.ports, ?_⟩
  by_cases hne : (r', sd') = (r, sd)
  · cases hne
    exact h.move
  · have ho := otherSide_of_ne hne
    rw [h.before r' sd' ho, h.after r' sd' ho, h.others r' sd' ho]
    exact .away _ _ _

theorem SideStep.port_cases {s t : State} {q' q : Port} {r : RingId} {sd : Side} {p : Nat} (h : SideStep s t q' r sd)
    (hq : t.ports[p]? = some q) : (p = s.cur ∧ q = q') ∨ (p ≠ s.cur ∧ s.ports[p]? = some q) := by
  rw [h.ports] at hq
  by_cases hp : s.cur = p
  · subst hp
    rw [List.getElem?_set_self h.granted] at hq
    exact .inl ⟨rfl, (Option.some.inj hq).symm⟩
  · rw [List.getElem?_set_ne hp] at hq
    exact .inr ⟨Ne.symm hp, hq⟩

theorem SideStep.port_own {s t : State} {q' : Port} {r : RingId} {sd : Side} (h : SideStep s t q' r sd) :
    t.ports[s.cur]? = some q' := by
  rw [h.ports, List.getElem?_set_self h.granted]

theorem SideStep.port_other {s t : State} {q' q : Port} {r : RingId} {sd : Side} {p : Nat} (h : SideStep s t q' r sd)
    (hp : p ≠ s.cur) (hq : s.ports[p]? = some q) : t.ports[p]? = some q := by
  rw [h.ports, List.getElem?_set_ne hp.symm]
  exact hq

/-! ### The reservations of a side -/

/-- Port `p` has a reservation of `k` positions from `oh` on open on side `(r, sd)`. -/
def State.Held (s : State) (r : RingId) (sd : Side) (p : Nat) (oh k : U32) : Prop :=
  ∃ q, s.ports[p]? = some q ∧ q.holds r sd = true ∧ q.lat.oh = oh ∧ q.lat.k = k

theorem exists_mem_holds_iff {s : State} {r : RingId} {sd : Side} :
    (∃ q ∈ s.ports, q.holds r sd = true) ↔ ∃ p oh k, s.Held r sd p oh k := by
  constructor
  · rintro ⟨q, hq, hh⟩
    obtain ⟨p, hp⟩ := List.mem_iff_getElem?.mp hq
    exact ⟨p, _, _, q, hp, hh, rfl, rfl⟩
  · rintro ⟨p, oh, k, q, hq, hh, -, -⟩
    exact ⟨q, List.mem_of_getElem? hq, hh⟩

/-- What a step does to the reservations of a side. -/
theorem SideStep.held_iff {s t : State} {q' : Port} {r : RingId} {sd : Side} (h : SideStep s t q' r sd) (p : Nat)
    (oh k : U32) : t.Held r sd p oh k ↔
      (p ≠ s.cur ∧ s.Held r sd p oh k) ∨ (p = s.cur ∧ q'.holds r sd = true ∧ q'.lat.oh = oh ∧ q'.lat.k = k) := by
  constructor
  · rintro ⟨q, hq, hh⟩
    rcases h.port_cases hq with ⟨rfl, rfl⟩ | ⟨hp, hq⟩
    · exact .inr ⟨rfl, hh⟩
    · exact .inl ⟨hp, q, hq, hh⟩
  · rintro (⟨hp, q, hq, hh⟩ | ⟨rfl, hh⟩)
    · exact ⟨q, h.port_other hp hq, hh⟩
    · exact ⟨q', h.port_own, hh⟩

theorem held_own_iff {s : State} {r : RingId} {sd : Side} (g : s.granted) (oh k : U32) :
    s.Held r sd s.cur oh k ↔ s.port.holds r sd = true ∧ s.lat.oh = oh ∧ s.lat.k = k := by
  constructor
  · rintro ⟨q, hq, hh⟩
    rw [State.getElem?_cur s g] at hq
    cases hq
    exact hh
  · exact fun hh => ⟨s.port, State.getElem?_cur s g, hh⟩

/-- A step that neither opens nor gives up a reservation keeps them all. -/
theorem SideStep.held_same {s t : State} {q' : Port} {r : RingId} {sd : Side} (h : SideStep s t q' r sd)
    (hholds : q'.holds r sd = s.port.holds r sd)
    (hrange : s.port.holds r sd = true → q'.lat.oh = s.lat.oh ∧ q'.lat.k = s.lat.k) (p : Nat) (oh k : U32) :
    t.Held r sd p oh k ↔ s.Held r sd p oh k := by
  rw [h.held_iff]
  by_cases hp : p = s.cur
  · subst hp
    rw [held_own_iff h.granted, hholds]
    constructor
    · rintro (⟨hne, -⟩ | ⟨-, hh, hoh, hk⟩)
      · exact absurd rfl hne
      · obtain ⟨hoh', hk'⟩ := hrange hh
        exact ⟨hh, hoh' ▸ hoh, hk' ▸ hk⟩
    · rintro ⟨hh, hoh, hk⟩
      obtain ⟨hoh', hk'⟩ := hrange hh
      exact .inr ⟨rfl, hh, hoh'.trans hoh, hk'.trans hk⟩
  · simp [hp]

/-! ### `HTS` -/

/-- The statement's predicate, in terms of the reservations. -/
theorem htsExclusive_iff {s : State} {r : RingId} {sd : Side} :
    s.HtsExclusive r sd ↔
      (∀ p oh k, s.Held r sd p oh k → s.headw r sd ≠ s.tailview r sd ∧ oh = s.tailview r sd ∧ oh + k = s.headw r sd ∧
        ∀ p' oh' k', s.Held r sd p' oh' k' → p' = p) ∧
      (s.headw r sd ≠ s.tailview r sd → ∃ p oh k, s.Held r sd p oh k) := by
  unfold State.HtsExclusive
  rw [exists_mem_holds_iff]
  refine and_congr_left fun _ => ⟨fun h p oh k hheld => ?_, fun h p q hq hh => ?_⟩
  · obtain ⟨q, hq, hh, rfl, rfl⟩ := hheld
    obtain ⟨hopen, hoh, hk, honly⟩ := h p q hq hh
    refine ⟨hopen, hoh, hk, fun p' oh' k' hheld' => ?_⟩
    obtain ⟨q', hq', hh', -, -⟩ := hheld'
    exact honly p' q' hq' hh'
  · obtain ⟨hopen, hoh, hk, honly⟩ := h p _ _ ⟨q, hq, hh, rfl, rfl⟩
    exact ⟨hopen, hoh, hk, fun p' q' hq' hh' => honly p' _ _ ⟨q', hq', hh', rfl, rfl⟩⟩

/-- What a step can do on a side under `HTS`. -/
inductive HtsMove (a : Stage) (x : Latches) (w : SideRegs) (a' : Stage) (x' : Latches) (w' : SideRegs) : Prop
  | same (hw : w'.a = w.a) (hholds : a'.isHolding = a.isHolding)
    (hrange : a.isHolding = true → x'.oh = x.oh ∧ x'.k = x.k)
  | opens (hw : w.a = pack x.oh x.oh) (hw' : w'.a = pack (x.oh + x.k) x.oh) (hk : x.k ≠ 0#32)
    (hholds : a'.isHolding = true) (hx : x' = x)
  | closes (v : U32) (hw' : w'.a = pack v v) (hholds : a.isHolding = true) (hholds' : a'.isHolding = false)

theorem Move.hts {p : Nat} {av : U32 → U32} {a a' : Stage} {x x' : Latches} {w w' : SideRegs}
    (h : Move .hts p av a x w a' x' w') : HtsMove a x w a' x' w' := by
  cases h with
  | away => exact .same rfl rfl nofun
  | still => exact .same rfl rfl fun _ => ⟨rfl, rfl⟩
  | enter => exact .same rfl rfl nofun
  | look => exact .same rfl rfl nofun
  | find => exact .same rfl rfl nofun
  | nothing => exact .same rfl rfl nofun
  | hold l l' b _ _ _ hl' hoh hk => exact .same rfl rfl fun _ => ⟨hoh, hk⟩
  | turn _ _ _ hd => cases hd
  | readHead _ _ _ hd => cases hd
  | own _ _ _ _ hd => cases hd
  | ownNothing _ _ _ _ hd => cases hd
  | take l l' b _ _ a hk htakes hl' =>
    cases htakes with
    | hts hw => exact .opens hw rfl hk rfl rfl
  | takeNothing l b _ _ _ a hk htakes =>
    cases htakes with
    | hts hw =>
      refine .same ?_ rfl nofun
      rw [hw, hk, BitVec.add_zero]
  | give l b _ _ _ _ hgives => cases hgives <;> exact .closes _ rfl rfl rfl
  | giveNext l _ _ _ _ hgives => cases hgives <;> exact .closes _ rfl rfl rfl

theorem headw_eq (s : State) (r : RingId) (sd : Side) : s.headw r sd = loOf (s.side r sd).a := rfl

theorem tailview_hts {s : State} {r : RingId} {sd : Side} (h : syncOf s.cfg r sd = .hts) :
    s.tailview r sd = hiOf (s.side r sd).a := by rw [State.tailview, h]

theorem tailview_of_ne_hts {s : State} {r : RingId} {sd : Side} (h : syncOf s.cfg r sd ≠ .hts) :
    s.tailview r sd = loOf (s.side r sd).b := by
  unfold State.tailview
  split
  · rename_i hd
    exact absurd hd h
  all_goals rfl

theorem SideStep.htsExclusive {s t : State} {q' : Port} {r : RingId} {sd : Side} (h : SideStep s t q' r sd)
    (hd : syncOf s.cfg r sd = .hts) (hx : s.HtsExclusive r sd) : t.HtsExclusive r sd := by
  have hmove : HtsMove (s.port.stage r sd) s.lat (s.side r sd) (q'.stage r sd) q'.lat (t.side r sd) :=
    Move.hts (h.move_of_sync hd)
  have hd' : syncOf t.cfg r sd = .hts := by rw [h.cfg, hd]
  rw [htsExclusive_iff] at hx ⊢
  simp only [headw_eq, tailview_hts hd, tailview_hts hd'] at hx ⊢
  obtain ⟨hheld, hopen⟩ := hx
  cases hmove with
  | same hw hholds hrange =>
    have hsame := h.held_same (by rw [Port.holds_eq, Port.holds_eq, hholds]) (by rwa [Port.holds_eq])
    simp only [hw, hsame]
    exact ⟨hheld, hopen⟩
  | opens hw hw' hk hholds hlat =>
    have hnone : ∀ p oh k, ¬ s.Held r sd p oh k := fun p oh k hp => by
      obtain ⟨hne, -⟩ := hheld p oh k hp
      simp [hw] at hne
    have hiff : ∀ p oh k, t.Held r sd p oh k ↔ p = s.cur ∧ s.lat.oh = oh ∧ s.lat.k = k := fun p oh k => by
      simp [h.held_iff, hnone, Port.holds_eq, hholds, hlat]
    simp only [hiff, hw', loOf_pack, hiOf_pack]
    refine ⟨?_, fun _ => ⟨s.cur, _, _, rfl, rfl, rfl⟩⟩
    rintro p oh k ⟨rfl, rfl, rfl⟩
    refine ⟨by simpa using hk, rfl, rfl, ?_⟩
    rintro p' oh' k' ⟨rfl, -, -⟩
    rfl
  | closes v hw' hholds hholds' =>
    obtain ⟨-, -, -, honly⟩ := hheld s.cur s.lat.oh s.lat.k
      ((held_own_iff h.granted _ _).mpr ⟨by rw [Port.holds_eq, hholds], rfl, rfl⟩)
    have hnone : ∀ p oh k, ¬ t.Held r sd p oh k := fun p oh k hp => by
      rcases (h.held_iff p oh k).mp hp with ⟨hne, hp⟩ | ⟨-, hh, -⟩
      · exact hne (honly p oh k hp)
      · rw [Port.holds_eq, hholds'] at hh
        cases hh
    refine ⟨fun p oh k hp => absurd hp (hnone p oh k), fun hne => ?_⟩
    simp [hw'] at hne

/-- Settles O53: a reservation opens where the word is closed, and the port that closes it is the one that holds it. -/
theorem htsExclusiveKept : Obligations.HtsExclusiveKept := by
  intro s t r sd hs hd hx hreset h
  cases step_moves hs h with
  | still sched tick freech ht =>
    subst ht
    exact hx
  | reset cfg hev sched tick ht => exact absurd hev (hreset cfg)
  | moves p sched tick q' r0 sd0 hring =>
    exact (hring.sideStep r sd).htsExclusive (s := s.withOwn p sched tick) hd hx

/-! ### `ST` -/

/-- What a step can do on a side under `ST`. -/
inductive StMove (p : Nat) (a : Stage) (x : Latches) (w : SideRegs) (a' : Stage) (x' : Latches) (w' : SideRegs) : Prop
  | same (hw : w'.sown = w.sown) (hinside : a'.isInside = a.isInside)
    (hk : a' = .reserving .s3 false → x'.k ≠ 0#32 ∨ (a = .reserving .s3 false ∧ x' = x))
  | owns (hv : w.sown.valid = false) (hw' : w'.sown = { valid := true, owner := p }) (ha : a' = .reserving .s2 false)
  | frees (hw' : w'.sown = Owner.free) (hinside : a.isInside = true) (hinside' : a'.isInside = false)

theorem ne_s1_of_mem_findLabels {l l' : Label} (h : (l, l') ∈ findLabels) : l ≠ .s1 ∧ l' ≠ .s1 := by
  simp only [findLabels, List.mem_cons, List.not_mem_nil, or_false, Prod.mk.injEq] at h
  rcases h with ⟨rfl, rfl⟩ | ⟨rfl, rfl⟩ | ⟨rfl, rfl⟩ | ⟨rfl, rfl⟩ <;> decide

/-- `hlegal` and `hlegal'`: no pass works on the side; `hready`: a port gets to `S3` with something to reserve. -/
theorem Move.st {p : Nat} {av : U32 → U32} {a a' : Stage} {x x' : Latches} {w w' : SideRegs}
    (h : Move .st p av a x w a' x' w') (hlegal : StageLegal .st a)
    (hready : a = .reserving .s3 false → x.k ≠ 0#32) : StMove p a x w a' x' w' := by
  have hb : ∀ l b, a = .reserving l b → b = false := by
    rintro l b rfl
    obtain ⟨-, hpass⟩ := hlegal
    cases b with
    | false => rfl
    | true => cases hpass rfl
  cases h with
  | away => exact .same rfl rfl nofun
  | still => exact .same rfl rfl fun ha => .inr ⟨ha, rfl⟩
  | enter b =>
    cases b with
    | false => exact .same rfl rfl nofun
    | true => exact .same rfl rfl nofun
  | look _ _ _ _ _ _ hd => exact absurd rfl hd
  | find l l' b _ _ _ hl hf hk =>
    obtain rfl := hb l b rfl
    obtain ⟨hne, hne'⟩ := ne_s1_of_mem_findLabels hl
    exact .same rfl (by simp [hne, hne']) fun _ => .inl hk
  | nothing l b _ _ _ hl =>
    obtain rfl := hb l b rfl
    obtain rfl := hl rfl
    exact .same rfl rfl nofun
  | hold => exact .same rfl rfl nofun
  | turn _ _ _ hd => cases hd
  | readHead _ _ _ hd => cases hd
  | own b _ _ _ _ hv =>
    obtain rfl := hb .s1 b rfl
    exact .owns hv rfl rfl
  | ownNothing b =>
    obtain rfl := hb .s2 b rfl
    exact .frees rfl rfl rfl
  | take l l' b _ _ _ hk htakes hl' =>
    obtain rfl := hb l b rfl
    cases htakes with
    | st => exact .same rfl rfl nofun
  | takeNothing l b _ _ _ _ hk htakes =>
    obtain rfl := hb l b rfl
    cases htakes with
    | st => exact absurd hk (hready rfl)
  | give l b _ _ _ _ hgives =>
    cases hgives with
    | st => exact .frees rfl rfl rfl
  | giveNext l _ _ _ _ hgives =>
    obtain ⟨hd, -⟩ := hlegal
    cases hd

/-- At `S3` of a `RINGOP` on the side. -/
theorem stage_s3_of_phase {q : Port} {r : RingId} {sd : Side} (hi : q.inside r sd = true)
    (hp : q.phase = .busy .s3 [.ringop, .reserve]) : q.stage r sd = .reserving .s3 false := by
  rw [Port.inside_eq] at hi
  cases hst : q.stage r sd with
  | out => simp [hst] at hi
  | reserving l b =>
    have hp' := phase_of_reserving hst
    rw [hp] at hp'
    cases b <;> simp_all
  | holding l b =>
    obtain ⟨inner, hp', hinner⟩ := phase_of_holding hst
    rw [hp] at hp'
    cases b with
    | true => simp at hp'
    | false =>
      simp only [Bool.false_eq_true, if_false, Phase.busy.injEq, List.cons.injEq, true_and] at hp'
      obtain ⟨-, rfl⟩ := hp'
      simp at hinner

theorem inside_of_getElem? {s : State} {r : RingId} {sd : Side} {p : Nat} {q : Port} (hq : s.ports[p]? = some q)
    (hi : q.inside r sd = true) : ∃ q ∈ s.ports, q.inside r sd = true := ⟨q, List.mem_of_getElem? hq, hi⟩

theorem SideStep.stOwned {s t : State} {q' : Port} {r : RingId} {sd : Side} (h : SideStep s t q' r sd)
    (hs : PortsSound s) (hd : syncOf s.cfg r sd = .st) (hx : s.StOwned r sd) : t.StOwned r sd := by
  obtain ⟨hown, hused⟩ := hx
  have hcur := State.getElem?_cur s h.granted
  have hready : s.port.stage r sd = .reserving .s3 false → s.lat.k ≠ 0#32 := fun hst =>
    (hown s.cur s.port hcur (by rw [Port.inside_eq, hst]; rfl)).2 (phase_of_reserving hst)
  have hmove : StMove s.cur (s.port.stage r sd) s.lat (s.side r sd) (q'.stage r sd) q'.lat (t.side r sd) :=
    Move.st (h.move_of_sync hd) (hd ▸ stage_legal (hs _ (port_mem h.granted)) r sd) hready
  have hmine : s.port.inside r sd = true → (s.side r sd).sown = { valid := true, owner := s.cur } := fun hi =>
    (hown s.cur s.port hcur hi).1
  cases hmove with
  | same hw hinside hk =>
    have hiff : q'.inside r sd = s.port.inside r sd := by rw [Port.inside_eq, Port.inside_eq, hinside]
    refine ⟨fun p q hq hi => ?_, fun hv => ?_⟩
    · rw [hw]
      rcases h.port_cases hq with ⟨rfl, rfl⟩ | ⟨hp, hq⟩
      · refine ⟨hmine (hiff ▸ hi), fun hphase => ?_⟩
        rcases hk (stage_s3_of_phase hi hphase) with hk | ⟨hst, hlat⟩
        · exact hk
        · rw [hlat]
          exact hready hst
      · exact hown p q hq hi
    · rw [hw] at hv
      obtain ⟨q, hq, hi⟩ := hused hv
      obtain ⟨p, hq⟩ := List.mem_iff_getElem?.mp hq
      by_cases hp : p = s.cur
      · subst hp
        rw [hcur] at hq
        cases hq
        exact inside_of_getElem? h.port_own (hiff.trans hi)
      · exact inside_of_getElem? (h.port_other hp hq) hi
  | owns hv hw' ha =>
    refine ⟨fun p q hq hi => ?_, fun _ => inside_of_getElem? h.port_own (by rw [Port.inside_eq, ha]; rfl)⟩
    rcases h.port_cases hq with ⟨rfl, rfl⟩ | ⟨hp, hq⟩
    · refine ⟨hw', fun hphase => ?_⟩
      have hst := stage_s3_of_phase hi hphase
      rw [ha] at hst
      cases hst
    · obtain ⟨hsown, -⟩ := hown p q hq hi
      rw [hsown] at hv
      cases hv
  | frees hw' hinside hinside' =>
    have hcurOwns := hmine (by rw [Port.inside_eq, hinside])
    refine ⟨fun p q hq hi => ?_, fun hv => ?_⟩
    · rcases h.port_cases hq with ⟨rfl, rfl⟩ | ⟨hp, hq⟩
      · rw [Port.inside_eq, hinside'] at hi
        cases hi
      · obtain ⟨hsown, -⟩ := hown p q hq hi
        rw [hcurOwns] at hsown
        cases hsown
        exact absurd rfl hp
    · rw [hw'] at hv
      cases hv

/-- Settles O54: `S1` takes a side that no port owns, and the port that frees it is the owner. -/
theorem stOwnedKept : Obligations.StOwnedKept := by
  intro s t r sd hs hd hx hreset h
  cases step_moves hs h with
  | still sched tick freech ht =>
    subst ht
    exact hx
  | reset cfg hev sched tick ht => exact absurd hev (hreset cfg)
  | moves p sched tick q' r0 sd0 hring =>
    obtain ⟨-, -, -, -, -, -, hports⟩ := hs
    exact (hring.sideStep r sd).stOwned (s := s.withOwn p sched tick) hports hd hx

end Sys2Proof.Machine
end

section
/-! PROOFS. The terms of the ring invariant, for its proof: distances between counters as numbers, what a port in a
reservation knows, by stage, and `Change`, what a step does to the numbers of a side. -/

namespace Sys2Proof.Machine

/-! ### Distances between counters modulo 2^32 -/

theorem dist_add {h t k : U32} (hroom : (h - t).toNat + k.toNat < 2 ^ 32) :
    (h + k - t).toNat = (h - t).toNat + k.toNat := by
  bv_omega

theorem dist_sub {h t e : U32} (he : e.toNat ≤ (h - t).toNat) : (h - (t + e)).toNat = (h - t).toNat - e.toNat := by
  bv_omega

theorem dist_trans {x y z : U32} (h : (x - y).toNat + (y - z).toNat < 2 ^ 32) :
    (x - z).toNat = (x - y).toNat + (y - z).toNat := by
  bv_omega

/-- The free slots of a producer. -/
theorem room_toNat {c t x : U32} (h : (x - t).toNat ≤ c.toNat) : (c + t - x).toNat = c.toNat - (x - t).toNat := by
  bv_omega

theorem toNat_pos_of_ne_zero {k : U32} (h : k ≠ 0#32) : 0 < k.toNat := by
  rw [Nat.pos_iff_ne_zero]
  exact fun h0 => h (BitVec.eq_of_toNat_eq h0)

/-- The positions of a side that are reserved and not published. -/
abbrev State.span (s : State) (r : RingId) (sd : Side) : Nat := (s.headw r sd - s.tailview r sd).toNat

/-- The published positions that no consumer has reserved. -/
abbrev State.ready (s : State) (r : RingId) : Nat := (s.tailview r .prod - s.headw r .cons).toNat

theorem inOrder_iff {s : State} {r : RingId} :
    s.InOrder r ↔ s.span r .cons + s.ready r + s.span r .prod ≤ (cap s.cfg r).toNat := Iff.rfl

/-- From the consumer tail to the producer head. -/
theorem reach_of_inOrder {s : State} {r : RingId} (h : s.InOrder r) :
    (s.headw r .prod - s.tailview r .cons).toNat = s.span r .cons + s.ready r + s.span r .prod := by
  have hc := (cap s.cfg r).isLt
  simp only [State.InOrder, State.span, State.ready] at h ⊢
  have hmid := dist_trans (x := s.tailview r .prod) (y := s.headw r .cons) (z := s.tailview r .cons) (by omega)
  rw [dist_trans (y := s.tailview r .prod) (by omega), hmid]
  omega

/-- What is available to a producer is free. -/
theorem room_of_avail_prod {s : State} {r : RingId} {k : U32} (h : s.InOrder r)
    (hk : k ≤ avail s.cfg r .prod (s.headw r .prod) (s.tailview r .cons)) :
    s.span r .cons + s.ready r + s.span r .prod + k.toNat ≤ (cap s.cfg r).toNat := by
  have hreach := reach_of_inOrder h
  rw [inOrder_iff] at h
  change k ≤ cap s.cfg r + s.tailview r .cons - s.headw r .prod at hk
  rw [BitVec.le_def, room_toNat (by omega)] at hk
  omega

/-- What is available to a consumer is published. -/
theorem room_of_avail_cons {s : State} {r : RingId} {k : U32}
    (hk : k ≤ avail s.cfg r .cons (s.headw r .cons) (s.tailview r .prod)) : k.toNat ≤ s.ready r := hk

/-- What is available does not shrink as the opposing tail moves on. -/
theorem avail_mono {s : State} {r : RingId} {sd : Side} {oh e : U32} (h : s.InOrder r)
    (hoh : oh = s.headw r sd ∨ oh = s.tailview r sd) (he : e.toNat ≤ s.span r sd.opp) :
    avail s.cfg r sd oh (s.tailview r sd.opp) ≤ avail s.cfg r sd oh (s.tailview r sd.opp + e) := by
  have hreach := reach_of_inOrder h
  have hc := (cap s.cfg r).isLt
  simp only [State.InOrder, State.span, State.ready] at h hreach
  have hmid := dist_trans (x := s.tailview r .prod) (y := s.headw r .cons) (z := s.tailview r .cons) (by omega)
  rw [BitVec.le_def]
  cases sd with
  | prod =>
    change e.toNat ≤ (s.headw r .cons - s.tailview r .cons).toNat at he
    change (cap s.cfg r + s.tailview r .cons - oh).toNat ≤ (cap s.cfg r + (s.tailview r .cons + e) - oh).toNat
    have hdist : (s.headw r .cons - s.tailview r .cons).toNat ≤ (oh - s.tailview r .cons).toNat ∧
        (oh - s.tailview r .cons).toNat ≤ (cap s.cfg r).toNat := by
      rcases hoh with rfl | rfl <;> omega
    obtain ⟨hlow, hhigh⟩ := hdist
    have hrest := dist_sub (h := oh) (le_trans he hlow)
    rw [room_toNat hhigh, room_toNat (by omega)]
    omega
  | cons =>
    change e.toNat ≤ (s.headw r .prod - s.tailview r .prod).toNat at he
    change (s.tailview r .prod - oh).toNat ≤ (s.tailview r .prod + e - oh).toNat
    have hdist : (s.tailview r .prod - oh).toNat + (s.headw r .prod - s.tailview r .prod).toNat < 2 ^ 32 := by
      rcases hoh with rfl | rfl <;> omega
    rw [dist_add (by omega)]
    omega

/-! ### What a port in `RESERVE` knows -/

/-- The head word is the one that the store at line `l` is for. -/
def expects (l : Label) (x : Latches) (w : U64) : Prop :=
  match l with
  | .m3 => loOf w = x.oh
  | .s3 => loOf w = x.oh
  | .h3 => hiOf w = x.oh
  | .t4 => w = pack x.oh x.oc
  | _ => False

theorem expectsHead_iff {q : Port} {l : Label} {st : List Seq} (h : q.phase = .busy l st) (w : U64) :
    q.expectsHead w = true ↔ expects l q.lat w := by
  unfold Port.expectsHead
  rw [h]
  cases l <;> simp [expects]

/-- The head it expects is the head of the side, or its tail under `HTS`. -/
theorem oh_of_expects {s : State} {r : RingId} {sd : Side} {l : Label} {x : Latches} (h : expects l x (s.side r sd).a)
    (hl : l ∈ reserveLabels (syncOf s.cfg r sd)) : x.oh = s.headw r sd ∨ x.oh = s.tailview r sd := by
  cases l <;> simp only [expects] at h
  · exact .inl h.symm
  · exact .inl h.symm
  · have hd : syncOf s.cfg r sd = .hts := by
      cases hd : syncOf s.cfg r sd <;> rw [hd] at hl <;> simp [reserveLabels] at hl ⊢
    exact .inr (by rw [tailview_hts hd, h])
  · exact .inl (by rw [headw_eq, h, loOf_pack])

/-- `candidateOk`, by stage. -/
structure Candidate (s : State) (r : RingId) (sd : Side) (l : Label) (b : Bool) (x : Latches) : Prop where
  still : l ∈ [Label.s2, .s3] → s.headw r sd = x.oh ∧ s.tailview r sd = x.oh
  fits : expects l x (s.side r sd).a → x.k ≠ 0#32 ∧ x.k ≤ avail s.cfg r sd x.oh (s.tailview r sd.opp)
  one : b = true → x.n = 1#32 ∧ x.beh = .exact ∧ (l = .h3 → x.k = 1#32)

theorem candidateOk_iff {s : State} {q : Port} {r : RingId} {sd : Side} {l : Label} {b : Bool}
    (h : q.stage r sd = .reserving l b) : s.candidateOk q r sd = true ↔ Candidate s r sd l b q.lat := by
  have hp := phase_of_reserving h
  have hexp := expectsHead_iff hp (s.side r sd).a
  unfold State.candidateOk
  simp only [Bool.and_eq_true, Bool.or_eq_true, Bool.not_eq_true', decide_eq_true_eq]
  have hfits : (q.expectsHead (s.side r sd).a = false ∨ q.lat.k ≠ 0#32 ∧
      q.lat.k ≤ avail s.cfg r sd q.lat.oh (s.tailview r sd.opp)) ↔
        (expects l q.lat (s.side r sd).a → q.lat.k ≠ 0#32 ∧
          q.lat.k ≤ avail s.cfg r sd q.lat.oh (s.tailview r sd.opp)) := by
    rw [← hexp, ← Bool.not_eq_true, ← imp_iff_not_or]
  rw [hfits, hp]
  constructor
  · rintro ⟨⟨hstill, hfit⟩, hone⟩
    refine ⟨fun hl => ?_, hfit, fun hb => ?_⟩
    · simp only [List.mem_cons, List.not_mem_nil, or_false] at hl
      rcases hl with rfl | rfl <;> simpa using hstill
    · subst hb
      simpa [and_assoc, ← imp_iff_not_or] using hone
  · rintro ⟨hstill, hfit, hone⟩
    refine ⟨⟨?_, hfit⟩, ?_⟩
    · split
      · rename_i heq
        cases heq
        simpa using hstill (by decide)
      · rename_i heq
        cases heq
        simpa using hstill (by decide)
      · rfl
    · cases b with
      | false => rfl
      | true => simpa [and_assoc, ← imp_iff_not_or] using hone rfl

/-! ### What a port with an open reservation knows -/

/-- The disciplines under which a side has at most one reservation open. -/
def Exclusive (d : Sync) : Prop := d = .st ∨ d = .hts

/-- `holderOk`, by stage. -/
structure Holder (s : State) (r : RingId) (sd : Side) (l : Label) (b : Bool) (x : Latches) : Prop where
  whole : Exclusive (syncOf s.cfg r sd) → x.oh = s.tailview r sd ∧ x.oh + x.k = s.headw r sd
  turn : l = .m5 → x.oh = s.tailview r sd
  one : b = true → l ≠ .m5 → x.k = 1#32

theorem holderOk_iff {s : State} {q : Port} {r : RingId} {sd : Side} {l : Label} {b : Bool}
    (h : q.stage r sd = .holding l b) : s.holderOk q r sd = true ↔ Holder s r sd l b q.lat := by
  obtain ⟨inner, hp, -⟩ := phase_of_holding h
  unfold State.holderOk
  rw [Bool.and_eq_true, hp]
  constructor
  · rintro ⟨hwhole, hrest⟩
    refine ⟨fun hd => ?_, fun hl => ?_, fun hb hl => ?_⟩
    · rcases hd with hd | hd <;> rw [hd] at hwhole <;> simpa using hwhole
    · subst hl
      simpa using hrest
    · subst hb
      split at hrest
      · rename_i heq
        cases heq
        exact absurd rfl hl
      · exact of_decide_eq_true hrest
      · rename_i hno
        exact absurd rfl (hno l inner)
  · rintro ⟨hwhole, hturn, hone⟩
    constructor
    · split
      · rename_i hd
        simpa using hwhole (.inl hd)
      · rename_i hd
        simpa using hwhole (.inr hd)
      · rfl
      · rfl
    · split
      · rename_i heq
        cases heq
        exact decide_eq_true (hturn rfl)
      · rename_i hne heq
        cases b with
        | false => cases heq
        | true =>
          cases heq
          exact decide_eq_true (hone rfl hne)
      · rfl

/-- The reservations of a side do not meet, in terms of `Held`. -/
def State.Ranges (s : State) (r : RingId) (sd : Side) : Prop :=
  ∀ p oh k, s.Held r sd p oh k →
    k ≠ 0#32 ∧ (oh - s.tailview r sd).toNat + k.toNat ≤ s.span r sd ∧
      ∀ p' oh' k', s.Held r sd p' oh' k' → p' ≠ p →
        (oh - s.tailview r sd).toNat + k.toNat ≤ (oh' - s.tailview r sd).toNat ∨
          (oh' - s.tailview r sd).toNat + k'.toNat ≤ (oh - s.tailview r sd).toNat

theorem rangesDisjoint_iff {s : State} {r : RingId} {sd : Side} : s.RangesDisjoint r sd ↔ s.Ranges r sd := by
  constructor
  · rintro h p oh k ⟨q, hq, hh, rfl, rfl⟩
    obtain ⟨hk, hlen, hmeet⟩ := h p q hq hh
    refine ⟨hk, hlen, ?_⟩
    rintro p' oh' k' ⟨q', hq', hh', rfl, rfl⟩ hne
    exact hmeet p' q' hq' hh' hne
  · intro h p q hq hh
    obtain ⟨hk, hlen, hmeet⟩ := h p _ _ ⟨q, hq, hh, rfl, rfl⟩
    exact ⟨hk, hlen, fun p' q' hq' hh' hne => hmeet p' _ _ ⟨q', hq', hh', rfl, rfl⟩ hne⟩

/-- A reservation of the whole span is the only one. -/
theorem only_of_whole {s : State} {r : RingId} {sd : Side} (h : s.Ranges r sd) {p : Nat} {oh k : U32}
    (hheld : s.Held r sd p oh k) (hoh : oh = s.tailview r sd) (hk : oh + k = s.headw r sd) (p' : Nat) (oh' k' : U32)
    (hne : p' ≠ p) : ¬ s.Held r sd p' oh' k' := by
  intro hheld'
  obtain ⟨hk0, -, hmeet⟩ := h p oh k hheld
  obtain ⟨hk0', hlen, -⟩ := h p' oh' k' hheld'
  have hspan : s.span r sd = k.toNat := by
    rw [State.span, ← hk, hoh, BitVec.add_comm, BitVec.add_sub_cancel]
  have hpos := toNat_pos_of_ne_zero hk0
  have hpos' := toNat_pos_of_ne_zero hk0'
  have hzero : (oh - s.tailview r sd).toNat = 0 := by rw [hoh, BitVec.sub_self, BitVec.toNat_zero]
  have := hmeet p' oh' k' hheld' hne
  omega

/-- A side whose head is at its tail has nothing open. -/
theorem not_held_of_closed {s : State} {r : RingId} {sd : Side} (h : s.Ranges r sd)
    (hclosed : s.headw r sd = s.tailview r sd) (p : Nat) (oh k : U32) : ¬ s.Held r sd p oh k := by
  intro hheld
  obtain ⟨hk, hlen, -⟩ := h p oh k hheld
  have hpos := toNat_pos_of_ne_zero hk
  have hspan : s.span r sd = 0 := by rw [State.span, hclosed, BitVec.sub_self, BitVec.toNat_zero]
  omega

/-- The position jump of a publisher at `T7` is sound, in terms of `Held`. -/
theorem jumpSound_iff {s : State} {p : Nat} {q : Port} {r : RingId} {sd : Side} :
    s.JumpSound p q r sd ↔
      (q.expectsTail (s.side r sd).b = true → hiOf q.lat.otw + 1#32 = hiOf q.lat.hw →
        (loOf q.lat.hw - s.tailview r sd).toNat ≤ s.span r sd ∧
        (q.lat.oh - s.tailview r sd).toNat + q.lat.k.toNat ≤ (loOf q.lat.hw - s.tailview r sd).toNat ∧
        ∀ p' oh k, s.Held r sd p' oh k → p' ≠ p →
          (loOf q.lat.hw - s.tailview r sd).toNat ≤ (oh - s.tailview r sd).toNat) := by
  refine imp_congr_right fun _ => imp_congr_right fun _ => and_congr_right fun _ => and_congr_right fun _ => ?_
  constructor
  · rintro h p' oh k ⟨q', hq', hh', rfl, rfl⟩ hne
    exact h p' q' hq' hh' hne
  · intro h p' q' hq' hh' hne
    exact h p' _ _ ⟨q', hq', hh', rfl, rfl⟩ hne

theorem expectsTail_iff {q : Port} {l : Label} {st : List Seq} (h : q.phase = .busy l st) (w : U64) :
    q.expectsTail w = true ↔ l = .t7 ∧ w = q.lat.otw := by
  unfold Port.expectsTail
  rw [h]
  cases l <;> simp

/-- What `RingOk` says of one side, of one port and its stage there. -/
structure PortOk (s : State) (r : RingId) (sd : Side) (p : Nat) (q : Port) : Prop where
  candidate : ∀ l b, q.stage r sd = .reserving l b → Candidate s r sd l b q.lat
  holder : ∀ l b, q.stage r sd = .holding l b → Holder s r sd l b q.lat
  jump : (q.stage r sd).isHolding = true → s.JumpSound p q r sd

theorem portOk_iff {s : State} {r : RingId} {sd : Side} {p : Nat} {q : Port} :
    ((q.reserves r sd = true → s.candidateOk q r sd = true) ∧
      (q.holds r sd = true → s.holderOk q r sd = true ∧ s.JumpSound p q r sd)) ↔ PortOk s r sd p q := by
  rw [Port.reserves_eq, Port.holds_eq]
  constructor
  · rintro ⟨hres, hhold⟩
    refine ⟨fun l b h => ?_, fun l b h => ?_, fun h => (hhold h).2⟩
    · exact (candidateOk_iff h).mp (hres (by rw [h]; rfl))
    · exact (holderOk_iff h).mp (hhold (by rw [h]; rfl)).1
  · rintro ⟨hcand, hhold, hjump⟩
    refine ⟨fun h => ?_, fun h => ⟨?_, hjump h⟩⟩
    · obtain ⟨l, b, h⟩ := isReserving_iff.mp h
      exact (candidateOk_iff h).mpr (hcand l b h)
    · obtain ⟨l, b, h⟩ := isHolding_iff.mp h
      exact (holderOk_iff h).mpr (hhold l b h)

/-- The ring invariant in the terms of its proof. -/
theorem ringOk_iff {s : State} {r : RingId} :
    s.RingOk r ↔ s.InOrder r ∧ ∀ sd, s.Ranges r sd ∧ s.OpenCounted r sd ∧
      ∀ p q, s.ports[p]? = some q → PortOk s r sd p q := by
  simp only [State.RingOk, rangesDisjoint_iff, portOk_iff]

end Sys2Proof.Machine
end

section
/-! PROOFS. What one step does to the numbers of a side of an ordered ring: nothing (`Kept`), it reserves positions above the
head (`Taken`), or it gives a reservation up (`Given`). -/

namespace Sys2Proof.Machine

/-! ### The three changes -/

/-- Neither word changes, and the reservations are the same. -/
structure Kept (s t : State) (q' : Port) (r : RingId) (sd : Side) : Prop where
  a : (t.side r sd).a = (s.side r sd).a
  b : (t.side r sd).b = (s.side r sd).b
  holds : q'.holds r sd = s.port.holds r sd
  range : s.port.holds r sd = true → q'.lat.oh = s.lat.oh ∧ q'.lat.k = s.lat.k

/-- The granted port reserves `L.K` positions from the head on. -/
structure Taken (s t : State) (q' : Port) (r : RingId) (sd : Side) : Prop where
  oh : s.lat.oh = s.headw r sd
  pos : s.lat.k ≠ 0#32
  fits : s.lat.k ≤ avail s.cfg r sd (s.headw r sd) (s.tailview r sd.opp)
  head : t.headw r sd = s.headw r sd + s.lat.k
  tail : t.tailview r sd = s.tailview r sd
  word : (t.side r sd).b = (s.side r sd).b
  count : syncOf s.cfg r sd = .rts → t.headcnt r sd = s.headcnt r sd + 1#32
  closed : Exclusive (syncOf s.cfg r sd) → s.headw r sd = s.tailview r sd
  own : syncOf s.cfg r sd = .st → s.port.inside r sd = true
  before : s.port.holds r sd = false
  after : q'.holds r sd = true
  lat : q'.lat = s.lat

/-- The granted port gives its reservation up, and the tail moves `e` positions on. -/
structure Given (s t : State) (q' : Port) (r : RingId) (sd : Side) (e : U32) : Prop where
  tail : t.tailview r sd = s.tailview r sd + e
  le : e.toNat ≤ s.span r sd
  below : ∀ p oh k, p ≠ s.cur → s.Held r sd p oh k → e.toNat ≤ (oh - s.tailview r sd).toNat
  head : t.headw r sd = s.headw r sd ∨
    (t.headw r sd = s.tailview r sd ∧ e = 0#32 ∧ Exclusive (syncOf s.cfg r sd))
  rts : syncOf s.cfg r sd = .rts → t.headcnt r sd = s.headcnt r sd ∧ t.tailcnt r sd = s.tailcnt r sd + 1#32
  mt : syncOf s.cfg r sd = .mt → e = s.lat.k
  only : Exclusive (syncOf s.cfg r sd) →
    t.headw r sd = t.tailview r sd ∧ ∀ p oh k, p ≠ s.cur → ¬ s.Held r sd p oh k
  before : s.port.holds r sd = true
  after : q'.holds r sd = false

/-- What a step does to the numbers of a side. -/
inductive Change (s t : State) (q' : Port) (r : RingId) (sd : Side) : Prop
  | keeps (h : Kept s t q' r sd)
  | takes (h : Taken s t q' r sd)
  | gives (e : U32) (h : Given s t q' r sd e)

theorem tailview_congr {s t : State} {r : RingId} {sd : Side} (hcfg : t.cfg = s.cfg)
    (ha : (t.side r sd).a = (s.side r sd).a) (hb : (t.side r sd).b = (s.side r sd).b) :
    t.tailview r sd = s.tailview r sd := by
  simp only [State.tailview, hcfg, ha, hb]

theorem Kept.head {s t : State} {q' : Port} {r : RingId} {sd : Side} (h : Kept s t q' r sd) :
    t.headw r sd = s.headw r sd := congrArg loOf h.a

theorem Kept.headcnt {s t : State} {q' : Port} {r : RingId} {sd : Side} (h : Kept s t q' r sd) :
    t.headcnt r sd = s.headcnt r sd := congrArg hiOf h.a

theorem Kept.tailcnt {s t : State} {q' : Port} {r : RingId} {sd : Side} (h : Kept s t q' r sd) :
    t.tailcnt r sd = s.tailcnt r sd := congrArg hiOf h.b

theorem Kept.tail {s t : State} {q' : Port} {r : RingId} {sd : Side} (h : Kept s t q' r sd) (hcfg : t.cfg = s.cfg) :
    t.tailview r sd = s.tailview r sd := tailview_congr hcfg h.a h.b

theorem Kept.span {s t : State} {q' : Port} {r : RingId} {sd : Side} (h : Kept s t q' r sd) (hcfg : t.cfg = s.cfg) :
    t.span r sd = s.span r sd := by rw [State.span, h.head, h.tail hcfg]

theorem Kept.held {s t : State} {q' : Port} {r : RingId} {sd : Side} (h : Kept s t q' r sd) (hs : SideStep s t q' r sd)
    (p : Nat) (oh k : U32) : t.Held r sd p oh k ↔ s.Held r sd p oh k := hs.held_same h.holds h.range p oh k

/-! ### Reserving -/

/-- What the store that takes positions finds and leaves in the head word. -/
structure TakesFacts (d : Sync) (l : Label) (x : Latches) (a a' : U64) : Prop where
  expects : expects l x a
  head : loOf a = x.oh
  head' : loOf a' = x.oh + x.k
  hts : d = .hts → hiOf a = x.oh ∧ hiOf a' = x.oh
  rts : d = .rts → hiOf a' = hiOf a + 1#32
  st : d = .st → l = .s3

theorem Takes.facts {d : Sync} {l : Label} {x : Latches} {a a' : U64} (h : Takes d l x a a')
    (hst : d = .st → l = .s3 → loOf a = x.oh) : TakesFacts d l x a a' := by
  cases h with
  | mt h => exact ⟨h, h, by simp, nofun, nofun, nofun⟩
  | st => exact ⟨hst rfl rfl, hst rfl rfl, by simp, nofun, nofun, fun _ => rfl⟩
  | hts h =>
    subst h
    exact ⟨by simp [expects], by simp, by simp, fun _ => by simp, nofun, nofun⟩
  | rts h =>
    subst h
    exact ⟨rfl, by simp, by simp, nofun, fun _ => by simp, nofun⟩

/-- What a port that stores at the end of `RESERVE` knows. -/
theorem takesFacts_of_candidate {s : State} {r : RingId} {sd : Side} {l : Label} {b : Bool} {a' : U64}
    (hc : Candidate s r sd l b s.lat) (h : Takes (syncOf s.cfg r sd) l s.lat (s.side r sd).a a') :
    TakesFacts (syncOf s.cfg r sd) l s.lat (s.side r sd).a a' := by
  refine h.facts fun _ hl => ?_
  obtain ⟨hhead, -⟩ := hc.still (by rw [hl]; decide)
  exact hhead

theorem SideStep.taken {s t : State} {q' : Port} {r : RingId} {sd : Side} {l l' : Label} {b b' : Bool} {a' : U64}
    (h : SideStep s t q' r sd) (hst : s.port.stage r sd = .reserving l b) (hst' : q'.stage r sd = .holding l' b')
    (hc : Candidate s r sd l b s.lat) (hlegal : StageLegal (syncOf s.cfg r sd) (s.port.stage r sd))
    (htakes : Takes (syncOf s.cfg r sd) l s.lat (s.side r sd).a a')
    (hside : t.side r sd = { s.side r sd with a := a' }) (hlat : q'.lat = s.lat) : Taken s t q' r sd := by
  have hf := takesFacts_of_candidate hc htakes
  obtain ⟨hpos, hfits⟩ := hc.fits hf.expects
  have hoh : s.lat.oh = s.headw r sd := hf.head.symm
  refine ⟨hoh, hpos, hoh ▸ hfits, ?_, ?_, by rw [hside], fun hd => ?_, fun hd => ?_, fun hd => ?_, ?_, ?_, hlat⟩
  · rw [headw_eq, hside, hf.head', hoh]
  · by_cases hd : syncOf s.cfg r sd = .hts
    · obtain ⟨hi, hi'⟩ := hf.hts hd
      rw [tailview_hts hd, tailview_hts (by rw [h.cfg, hd]), hside, hi, hi']
    · rw [tailview_of_ne_hts hd, tailview_of_ne_hts (by rwa [h.cfg]), hside]
  · rw [State.headcnt, State.headcnt, hside, hf.rts hd]
  · rcases hd with hd | hd
    · obtain ⟨hhead, htail⟩ := hc.still (by rw [hf.st hd]; decide)
      rw [hhead, htail]
    · rw [tailview_hts hd, (hf.hts hd).1, hoh]
  · rw [hst] at hlegal
    obtain ⟨-, hpass⟩ := hlegal
    have hl := hf.st hd
    rw [Port.inside_eq, hst, hl]
    cases b with
    | false => rfl
    | true =>
      rw [hd] at hpass
      cases hpass rfl
  · rw [Port.holds_eq, hst]
    rfl
  · rw [Port.holds_eq, hst']
    rfl

/-! ### Giving up -/

/-- Under a discipline with one reservation at a time, publishing closes the side. -/
theorem given_of_whole {s t : State} {q' : Port} {r : RingId} {sd : Side} (hr : s.Ranges r sd)
    (hheld : s.Held r sd s.cur s.lat.oh s.lat.k) (hd : Exclusive (syncOf s.cfg r sd))
    (hoh : s.lat.oh = s.tailview r sd) (hk : s.lat.oh + s.lat.k = s.headw r sd)
    (hhead : t.headw r sd = s.lat.oh + s.lat.k) (htail : t.tailview r sd = s.lat.oh + s.lat.k)
    (hbefore : s.port.holds r sd = true) (hafter : q'.holds r sd = false) : Given s t q' r sd s.lat.k := by
  obtain ⟨-, hlen, -⟩ := hr _ _ _ hheld
  have honly := fun p oh k hne => only_of_whole hr hheld hoh hk p oh k hne
  refine ⟨by rw [htail, hoh], le_trans (Nat.le_add_left _ _) hlen, fun p oh k hne hp => absurd hp (honly p oh k hne),
    .inl (hhead.trans hk), fun hrts => ?_, fun _ => rfl, fun _ => ⟨hhead.trans htail.symm, honly⟩, hbefore, hafter⟩
  rw [hrts] at hd
  rcases hd with hd | hd <;> cases hd

/-- Cancelling closes the side as it was. -/
theorem given_of_cancel {s t : State} {q' : Port} {r : RingId} {sd : Side} (hr : s.Ranges r sd)
    (hheld : s.Held r sd s.cur s.lat.oh s.lat.k) (hd : syncOf s.cfg r sd = .hts)
    (hoh : s.lat.oh = s.tailview r sd) (hk : s.lat.oh + s.lat.k = s.headw r sd)
    (hhead : t.headw r sd = s.lat.oh) (htail : t.tailview r sd = s.lat.oh)
    (hbefore : s.port.holds r sd = true) (hafter : q'.holds r sd = false) : Given s t q' r sd 0#32 := by
  have honly := fun p oh k hne => only_of_whole hr hheld hoh hk p oh k hne
  refine ⟨by rw [htail, hoh, BitVec.add_zero], Nat.zero_le _, fun p oh k hne hp => absurd hp (honly p oh k hne),
    .inr ⟨hhead.trans hoh, rfl, .inr hd⟩, fun hrts => ?_, fun hmt => ?_, fun _ => ⟨hhead.trans htail.symm, honly⟩,
    hbefore, hafter⟩
  · rw [hd] at hrts
    cases hrts
  · rw [hd] at hmt
    cases hmt

/-- Publishing in turn moves the tail past the port's own range. -/
theorem given_of_turn {s t : State} {q' : Port} {r : RingId} {sd : Side} (hr : s.Ranges r sd)
    (hheld : s.Held r sd s.cur s.lat.oh s.lat.k) (hd : syncOf s.cfg r sd = .mt) (hoh : s.lat.oh = s.tailview r sd)
    (hhead : t.headw r sd = s.headw r sd) (htail : t.tailview r sd = s.lat.oh + s.lat.k)
    (hbefore : s.port.holds r sd = true) (hafter : q'.holds r sd = false) : Given s t q' r sd s.lat.k := by
  obtain ⟨-, hlen, hmeet⟩ := hr _ _ _ hheld
  have hnot : ¬ Exclusive (syncOf s.cfg r sd) := by
    rw [hd]
    rintro (h | h) <;> cases h
  refine ⟨by rw [htail, hoh], le_trans (Nat.le_add_left _ _) hlen, fun p oh k hne hp => ?_, .inl hhead, fun hrts => ?_,
    fun _ => rfl, fun hex => absurd hex hnot, hbefore, hafter⟩
  · obtain ⟨hk, -, -⟩ := hr p oh k hp
    have hpos := toNat_pos_of_ne_zero hk
    have hzero : (s.lat.oh - s.tailview r sd).toNat = 0 := by rw [hoh, BitVec.sub_self, BitVec.toNat_zero]
    have := hmeet p oh k hp hne
    omega
  · rw [hd] at hrts
    cases hrts

theorem loOf_rtsNext (otw hw : U64) :
    loOf (rtsNext otw hw) = if hiOf otw + 1#32 = hiOf hw then loOf hw else loOf otw := loOf_pack _ _

theorem hiOf_rtsNext (otw hw : U64) : hiOf (rtsNext otw hw) = hiOf otw + 1#32 := hiOf_pack _ _

/-- Publishing under `RTS` moves the tail to the head that the port read, or not at all. -/
theorem given_of_rts {s t : State} {q' : Port} {r : RingId} {sd : Side} {b : Bool}
    (hst : s.port.stage r sd = .holding .t7 b) (hjump : s.JumpSound s.cur s.port r sd) (hcfg : t.cfg = s.cfg)
    (hd : syncOf s.cfg r sd = .rts) (hw : (s.side r sd).b = s.lat.otw)
    (hside : t.side r sd = { s.side r sd with b := rtsNext s.lat.otw s.lat.hw })
    (hbefore : s.port.holds r sd = true) (hafter : q'.holds r sd = false) : ∃ e, Given s t q' r sd e := by
  obtain ⟨inner, hp, -⟩ := phase_of_holding hst
  rw [jumpSound_iff] at hjump
  have hjump := hjump ((expectsTail_iff hp _).mpr ⟨rfl, hw⟩)
  have hnot : ¬ Exclusive (syncOf s.cfg r sd) := by
    rw [hd]
    rintro (h | h) <;> cases h
  have hne : syncOf s.cfg r sd ≠ .hts := by simp [hd]
  have htail : s.tailview r sd = loOf s.lat.otw := by rw [tailview_of_ne_hts hne, hw]
  have htail' : t.tailview r sd = loOf (rtsNext s.lat.otw s.lat.hw) := by
    rw [tailview_of_ne_hts (by rwa [hcfg]), hside]
  have hcount : t.headcnt r sd = s.headcnt r sd ∧ t.tailcnt r sd = s.tailcnt r sd + 1#32 := by
    refine ⟨by rw [State.headcnt, State.headcnt, hside], ?_⟩
    rw [State.tailcnt, State.tailcnt, hside, hiOf_rtsNext, hw]
  have hhead : t.headw r sd = s.headw r sd := by rw [headw_eq, headw_eq, hside]
  have hmt : ∀ e, syncOf s.cfg r sd = .mt → e = s.lat.k := fun e hmt => by
    rw [hd] at hmt
    cases hmt
  rw [loOf_rtsNext] at htail'
  split at htail'
  · rename_i hlast
    obtain ⟨hle, -, hbelow⟩ := hjump hlast
    exact ⟨loOf s.lat.hw - s.tailview r sd, by rw [htail', add_comm, BitVec.sub_add_cancel], hle,
      fun p oh k hne' hp' => hbelow p oh k hp' hne', .inl hhead, fun _ => hcount, hmt _, fun hex => absurd hex hnot,
      hbefore, hafter⟩
  · exact ⟨0#32, by rw [htail', htail, BitVec.add_zero], Nat.zero_le _, fun _ _ _ _ _ => Nat.zero_le _, .inl hhead,
      fun _ => hcount, hmt _, fun hex => absurd hex hnot, hbefore, hafter⟩

theorem SideStep.given {s t : State} {q' : Port} {r : RingId} {sd : Side} {l : Label} {b : Bool}
    (h : SideStep s t q' r sd) (hst : s.port.stage r sd = .holding l b)
    (hlegal : StageLegal (syncOf s.cfg r sd) (s.port.stage r sd)) (hok : PortOk s r sd s.cur s.port)
    (hr : s.Ranges r sd) (hgives : Gives (syncOf s.cfg r sd) l s.lat (s.side r sd) (t.side r sd))
    (hafter : q'.holds r sd = false) : ∃ e, Given s t q' r sd e := by
  have hbefore : s.port.holds r sd = true := by
    rw [Port.holds_eq, hst]
    rfl
  have hheld := (held_own_iff (sd := sd) (r := r) h.granted _ _).mpr ⟨hbefore, rfl, rfl⟩
  have hholder : Holder s r sd l b s.lat := hok.holder l b hst
  have hjump := hok.jump (by rw [hst]; rfl)
  generalize hd : syncOf s.cfg r sd = d at hgives
  generalize hside : t.side r sd = w' at hgives
  have hhead : t.headw r sd = loOf w'.a := by rw [headw_eq, hside]
  have htail : d ≠ .hts → t.tailview r sd = loOf w'.b := fun hne => by
    rw [tailview_of_ne_hts (by rwa [h.cfg, hd]), hside]
  have htail_hts : d = .hts → t.tailview r sd = hiOf w'.a := fun he => by
    rw [tailview_hts (by rw [h.cfg, hd, he]), hside]
  cases hgives with
  | mt =>
    exact ⟨_, given_of_turn hr hheld hd (hholder.turn rfl) hhead (by rw [htail nofun, loOf_storeLo]) hbefore hafter⟩
  | st =>
    obtain ⟨hoh, hk⟩ := hholder.whole (.inl hd)
    exact ⟨_, given_of_whole hr hheld (.inl hd) hoh hk (hhead.trans hk.symm) (by rw [htail nofun, loOf_storeLo]) hbefore
      hafter⟩
  | hts =>
    obtain ⟨hoh, hk⟩ := hholder.whole (.inr hd)
    exact ⟨_, given_of_whole hr hheld (.inr hd) hoh hk (by rw [hhead, loOf_pack]) (by rw [htail_hts rfl, hiOf_pack])
      hbefore hafter⟩
  | free =>
    obtain ⟨hoh, hk⟩ := hholder.whole (.inr hd)
    have hb : b = true := by
      cases b with
      | true => rfl
      | false =>
        rw [hst, hd] at hlegal
        rcases hlegal with hl | hl
        · cases hl
        · simp [publishLabels] at hl
    have hone := hholder.one hb nofun
    exact ⟨_, given_of_whole hr hheld (.inr hd) hoh hk (by rw [hhead, loOf_pack, hone])
      (by rw [htail_hts rfl, hiOf_pack, hone]) hbefore hafter⟩
  | cancel =>
    obtain ⟨hoh, hk⟩ := hholder.whole (.inr hd)
    exact ⟨_, given_of_cancel hr hheld hd hoh hk (by rw [hhead, loOf_pack]) (by rw [htail_hts rfl, hiOf_pack]) hbefore
      hafter⟩
  | rts hw => exact given_of_rts hst hjump h.cfg hd hw hside hbefore hafter

/-! ### Every step -/

theorem SideStep.change {s t : State} {q' : Port} {r : RingId} {sd : Side} (h : SideStep s t q' r sd)
    (hports : PortsSound s) (hok : PortOk s r sd s.cur s.port) (hr : s.Ranges r sd) : Change s t q' r sd := by
  have hlegal := stage_legal (hports _ (port_mem h.granted)) r sd
  have hmove := h.move
  have hkeeps : ∀ {a a' : Stage}, s.port.stage r sd = a → q'.stage r sd = a' →
      (t.side r sd).a = (s.side r sd).a → (t.side r sd).b = (s.side r sd).b → a'.isHolding = a.isHolding →
      (a.isHolding = true → q'.lat.oh = s.lat.oh ∧ q'.lat.k = s.lat.k) → Change s t q' r sd := by
    intro a a' ha ha' hwa hwb hholds hrange
    refine .keeps ⟨hwa, hwb, ?_, fun hh => hrange ?_⟩
    · rw [Port.holds_eq, Port.holds_eq, ha, ha', hholds]
    · rwa [Port.holds_eq, ha] at hh
  generalize hst : s.port.stage r sd = a at hmove
  generalize hst' : q'.stage r sd = a' at hmove
  generalize hx : s.lat = x at hmove
  generalize hx' : q'.lat = x' at hmove
  generalize hw : s.side r sd = w at hmove
  generalize hw' : t.side r sd = w' at hmove
  have hsame : w' = w → (t.side r sd).a = (s.side r sd).a ∧ (t.side r sd).b = (s.side r sd).b := fun he => by
    rw [hw, hw', he]
    exact ⟨rfl, rfl⟩
  cases hmove with
  | away => exact hkeeps hst hst' (hsame rfl).1 (hsame rfl).2 rfl nofun
  | still => exact hkeeps hst hst' (hsame rfl).1 (hsame rfl).2 rfl fun _ => by simp [hx, hx']
  | enter => exact hkeeps hst hst' (hsame rfl).1 (hsame rfl).2 rfl nofun
  | look => exact hkeeps hst hst' (hsame rfl).1 (hsame rfl).2 rfl nofun
  | find => exact hkeeps hst hst' (hsame rfl).1 (hsame rfl).2 rfl nofun
  | nothing => exact hkeeps hst hst' (hsame rfl).1 (hsame rfl).2 rfl nofun
  | own => exact hkeeps hst hst' (by rw [hw, hw']) (by rw [hw, hw']) rfl nofun
  | ownNothing => exact hkeeps hst hst' (by rw [hw, hw']) (by rw [hw, hw']) rfl nofun
  | hold l l' b _ _ _ hl' hoh hk =>
    exact hkeeps hst hst' (hsame rfl).1 (hsame rfl).2 rfl fun _ => by rw [hx, hx']; exact ⟨hoh, hk⟩
  | turn => exact hkeeps hst hst' (hsame rfl).1 (hsame rfl).2 rfl fun _ => by simp [hx, hx']
  | readHead => exact hkeeps hst hst' (hsame rfl).1 (hsame rfl).2 rfl fun _ => by simp [hx, hx']
  | take l l' b _ _ a' hk htakes hl' =>
    subst hx hw
    exact .takes (h.taken hst hst' (hok.candidate l b hst) hlegal htakes hw' hx')
  | takeNothing l b _ _ _ a' hk htakes =>
    subst hx hw
    have hc : Candidate s r sd l b s.lat := hok.candidate l b hst
    obtain ⟨hpos, -⟩ := hc.fits (takesFacts_of_candidate hc htakes).expects
    exact absurd hk hpos
  | give l b _ _ _ _ hgives =>
    subst hx hw hw'
    obtain ⟨e, he⟩ := h.given hst hlegal hok hr hgives (by rw [Port.holds_eq, hst']; rfl)
    exact .gives e he
  | giveNext l _ _ _ _ hgives =>
    subst hx hw hw'
    obtain ⟨e, he⟩ := h.given hst hlegal hok hr hgives (by rw [Port.holds_eq, hst']; rfl)
    exact .gives e he

end Sys2Proof.Machine
end

section
/-! PROOFS. What a change of one side does to the order of the counters, to the reservations and to their number (rules R23,
R24, R141). -/

namespace Sys2Proof.Machine

/-! ### Sums over the ports -/

theorem sum_filter_cons {α : Type} (f : α → Bool) (g : α → Nat) (x : α) (l : List α) :
    (((x :: l).filter f).map g).sum = (if f x then g x else 0) + ((l.filter f).map g).sum := by
  rw [List.filter_cons]
  split
  · rw [List.map_cons, List.sum_cons]
  · rw [Nat.zero_add]

/-- One entry of a list replaced, in a sum over the entries that satisfy `f`. -/
theorem sum_filter_set {α : Type} (f : α → Bool) (g : α → Nat) (a : α) :
    ∀ (l : List α) (i : Nat) (h : i < l.length),
      (((l.set i a).filter f).map g).sum + (if f l[i] then g l[i] else 0) =
        ((l.filter f).map g).sum + if f a then g a else 0
  | [], i, h => absurd h (Nat.not_lt_zero i)
  | x :: l, 0, _ => by
    rw [List.set_cons_zero, List.getElem_cons_zero, sum_filter_cons, sum_filter_cons]
    omega
  | x :: l, i + 1, h => by
    have ih := sum_filter_set f g a l i (Nat.lt_of_succ_lt_succ h)
    rw [List.set_cons_succ, List.getElem_cons_succ, sum_filter_cons, sum_filter_cons]
    omega

theorem countP_eq_sum {α : Type} (f : α → Bool) (l : List α) :
    l.countP f = ((l.filter f).map fun _ => 1).sum := by
  simp [List.countP_eq_length_filter]

/-- The reservations of a side, weighed by `g`. -/
def State.weight (s : State) (r : RingId) (sd : Side) (g : Port → Nat) : Nat :=
  ((s.ports.filter fun q => q.holds r sd).map g).sum

theorem SideStep.weight {s t : State} {q' : Port} {r : RingId} {sd : Side} (h : SideStep s t q' r sd) (g : Port → Nat) :
    t.weight r sd g + (if s.port.holds r sd = true then g s.port else 0) =
      s.weight r sd g + if q'.holds r sd = true then g q' else 0 := by
  have hsum := sum_filter_set (fun q => q.holds r sd) g q' s.ports s.cur h.granted
  rwa [← h.ports, ← State.port_eq s h.granted] at hsum

theorem openCounted_iff {s : State} {r : RingId} {sd : Side} :
    s.OpenCounted r sd ↔
      match syncOf s.cfg r sd with
      | .rts => s.headcnt r sd - s.tailcnt r sd = BitVec.ofNat 32 (s.weight r sd fun _ => 1)
      | .mt => s.span r sd = s.weight r sd fun q => q.lat.k.toNat
      | .st => (∀ p oh k, ¬ s.Held r sd p oh k) → s.headw r sd = s.tailview r sd
      | .hts => (∀ p oh k, ¬ s.Held r sd p oh k) → s.headw r sd = s.tailview r sd := by
  have hnone : (∀ q ∈ s.ports, q.holds r sd = false) ↔ ∀ p oh k, ¬ s.Held r sd p oh k := by
    rw [← not_iff_not]
    push Not
    rw [← exists_mem_holds_iff]
    simp
  unfold State.OpenCounted
  rw [hnone, countP_eq_sum]
  cases syncOf s.cfg r sd <;> exact Iff.rfl

/-! ### The order of the counters -/

/-- Reserving stays below what the opposing tail allows. -/
theorem Taken.span {s t : State} {q' : Port} {r : RingId} {sd : Side} (h : Taken s t q' r sd) (hs : s.InOrder r) :
    t.span r sd = s.span r sd + s.lat.k.toNat := by
  have hfits := h.fits
  have hc := (cap s.cfg r).isLt
  rw [State.span, h.head, h.tail]
  refine dist_add ?_
  cases sd with
  | prod =>
    have hroom := room_of_avail_prod hs hfits
    simp only [State.span, State.ready] at hroom
    omega
  | cons =>
    have hroom := room_of_avail_cons hfits
    simp only [State.InOrder, State.ready] at hs hroom
    omega

theorem Given.span_of_head {s t : State} {q' : Port} {r : RingId} {sd : Side} {e : U32} (h : Given s t q' r sd e)
    (hhead : t.headw r sd = s.headw r sd) : t.span r sd = s.span r sd - e.toNat := by
  rw [State.span, hhead, h.tail]
  exact dist_sub h.le

theorem Taken.inOrder {s t : State} {q' : Port} {r : RingId} {sd : Side} (h : Taken s t q' r sd)
    (ho : Kept s t q' r sd.opp) (hcfg : t.cfg = s.cfg) (hs : s.InOrder r) : t.InOrder r := by
  have hspan := h.span hs
  have hfits := h.fits
  have hhead' := ho.head
  have htail' := ho.tail hcfg
  have hspan' := ho.span hcfg
  cases sd with
  | prod =>
    have hroom := room_of_avail_prod hs hfits
    dsimp only [Side.opp] at hhead' htail' hspan'
    rw [inOrder_iff, hspan, hcfg, State.ready, hspan', hhead', h.tail]
    exact (by omega : s.span r .cons + s.ready r + (s.span r .prod + s.lat.k.toNat) ≤ (cap s.cfg r).toNat)
  | cons =>
    have hroom := room_of_avail_cons hfits
    dsimp only [Side.opp] at hhead' htail' hspan'
    rw [inOrder_iff, hspan, hcfg, State.ready, hspan', htail', h.head, dist_sub hroom]
    simp only [State.InOrder, State.span, State.ready] at hs hroom ⊢
    omega

theorem Given.inOrder {s t : State} {q' : Port} {r : RingId} {sd : Side} {e : U32} (h : Given s t q' r sd e)
    (ho : Kept s t q' r sd.opp) (hcfg : t.cfg = s.cfg) (hs : s.InOrder r) : t.InOrder r := by
  have hc := (cap s.cfg r).isLt
  have hle := h.le
  have hhead' := ho.head
  have htail' := ho.tail hcfg
  have hspan' := ho.span hcfg
  rcases h.head with hhead | ⟨hhead, rfl, -⟩
  · have hspan := h.span_of_head hhead
    cases sd with
    | prod =>
      dsimp only [Side.opp] at hhead' htail' hspan'
      rw [inOrder_iff, hspan, hcfg, State.ready, hspan', hhead', h.tail]
      simp only [State.InOrder, State.span] at hs hle ⊢
      rw [dist_add (by omega)]
      omega
    | cons =>
      dsimp only [Side.opp] at hhead' htail' hspan'
      rw [inOrder_iff, hspan, hcfg, State.ready, hspan', htail', hhead]
      simp only [State.InOrder, State.span] at hs hle ⊢
      omega
  · have htail : t.tailview r sd = s.tailview r sd := by rw [h.tail, BitVec.add_zero]
    have hspan : t.span r sd = 0 := by rw [State.span, hhead, htail, BitVec.sub_self, BitVec.toNat_zero]
    cases sd with
    | prod =>
      dsimp only [Side.opp] at hhead' htail' hspan'
      rw [inOrder_iff, hspan, hcfg, State.ready, hspan', hhead', htail]
      simp only [State.InOrder, State.span] at hs ⊢
      omega
    | cons =>
      dsimp only [Side.opp] at hhead' htail' hspan'
      rw [inOrder_iff, hspan, hcfg, State.ready, hspan', htail', hhead]
      simp only [State.InOrder, State.span] at hs ⊢
      rw [dist_trans (x := s.tailview r .prod) (y := s.headw r .cons) (by omega)]
      omega

/-- The other side of a ring. -/
theorem eq_opp_of_ne {sd sd' : Side} (h : sd' ≠ sd) : sd' = sd.opp := by
  cases sd <;> cases sd' <;> simp_all [Side.opp]

/-- The order of the counters after one step. -/
theorem Change.inOrder {s t : State} {q' : Port} {r : RingId} {sd : Side} (h : Change s t q' r sd)
    (ho : Kept s t q' r sd.opp) (hcfg : t.cfg = s.cfg) (hs : s.InOrder r) : t.InOrder r := by
  cases h with
  | keeps h =>
    have hsame : ∀ sd', t.headw r sd' = s.headw r sd' ∧ t.tailview r sd' = s.tailview r sd' := fun sd' => by
      by_cases hsd : sd' = sd
      · subst hsd
        exact ⟨h.head, h.tail hcfg⟩
      · obtain rfl := eq_opp_of_ne hsd
        exact ⟨ho.head, ho.tail hcfg⟩
    simpa only [State.InOrder, hcfg, (hsame _).1, (hsame _).2] using hs
  | takes h => exact h.inOrder ho hcfg hs
  | gives e h => exact h.inOrder ho hcfg hs

/-! ### The reservations -/

theorem Taken.held_iff {s t : State} {q' : Port} {r : RingId} {sd : Side} (h : Taken s t q' r sd)
    (hs : SideStep s t q' r sd) (p : Nat) (oh k : U32) :
    t.Held r sd p oh k ↔ s.Held r sd p oh k ∨ (p = s.cur ∧ s.lat.oh = oh ∧ s.lat.k = k) := by
  rw [hs.held_iff, h.lat]
  constructor
  · rintro (⟨-, hp⟩ | ⟨hp, -, hoh, hk⟩)
    · exact .inl hp
    · exact .inr ⟨hp, hoh, hk⟩
  · rintro (hp | ⟨hp, hoh, hk⟩)
    · refine .inl ⟨?_, hp⟩
      rintro rfl
      rw [held_own_iff hs.granted, h.before] at hp
      cases hp.1
    · exact .inr ⟨hp, h.after, hoh, hk⟩

theorem Given.held_iff {s t : State} {q' : Port} {r : RingId} {sd : Side} {e : U32} (h : Given s t q' r sd e)
    (hs : SideStep s t q' r sd) (p : Nat) (oh k : U32) :
    t.Held r sd p oh k ↔ p ≠ s.cur ∧ s.Held r sd p oh k := by
  rw [hs.held_iff, h.after]
  simp

theorem Taken.ranges {s t : State} {q' : Port} {r : RingId} {sd : Side} (h : Taken s t q' r sd)
    (hs : SideStep s t q' r sd) (ho : s.InOrder r) (hr : s.Ranges r sd) : t.Ranges r sd := by
  have hspan := h.span ho
  have hoff : (s.lat.oh - s.tailview r sd).toNat = s.span r sd := by rw [h.oh]
  intro p oh k hp
  simp only [h.held_iff hs, h.tail, hspan] at hp ⊢
  rcases hp with hp | ⟨rfl, rfl, rfl⟩
  · obtain ⟨hk, hlen, hmeet⟩ := hr p oh k hp
    refine ⟨hk, by omega, fun p' oh' k' hp' hne => ?_⟩
    rcases hp' with hp' | ⟨-, rfl, rfl⟩
    · exact hmeet p' oh' k' hp' hne
    · exact .inl (by omega)
  · refine ⟨h.pos, by omega, fun p' oh' k' hp' hne => ?_⟩
    rcases hp' with hp' | ⟨rfl, -, -⟩
    · obtain ⟨-, hlen, -⟩ := hr p' oh' k' hp'
      exact .inr (by omega)
    · exact absurd rfl hne

theorem Given.ranges {s t : State} {q' : Port} {r : RingId} {sd : Side} {e : U32} (h : Given s t q' r sd e)
    (hs : SideStep s t q' r sd) (hr : s.Ranges r sd) : t.Ranges r sd := by
  intro p oh k hp
  rw [h.held_iff hs] at hp
  obtain ⟨hne, hp⟩ := hp
  obtain ⟨hk, hlen, hmeet⟩ := hr p oh k hp
  have hbelow := h.below p oh k hne hp
  rcases h.head with hhead | ⟨-, -, hex⟩
  · refine ⟨hk, ?_, fun p' oh' k' hp' hne' => ?_⟩
    · rw [h.span_of_head hhead, h.tail, dist_sub hbelow]
      omega
    · rw [h.held_iff hs] at hp'
      obtain ⟨hcur, hp'⟩ := hp'
      have hbelow' := h.below p' oh' k' hcur hp'
      have := hmeet p' oh' k' hp' hne'
      rw [h.tail, dist_sub hbelow, dist_sub hbelow']
      omega
  · exact absurd hp ((h.only hex).2 p oh k hne)

/-- The reservations after one step. -/
theorem Change.ranges {s t : State} {q' : Port} {r : RingId} {sd : Side} (h : Change s t q' r sd)
    (hs : SideStep s t q' r sd) (ho : s.InOrder r) (hr : s.Ranges r sd) : t.Ranges r sd := by
  cases h with
  | keeps h =>
    have hcfg := hs.cfg
    simp only [State.Ranges, h.held hs, State.span, h.head, h.tail hcfg] at hr ⊢
    exact hr
  | takes h => exact h.ranges hs ho hr
  | gives e h => exact h.ranges hs hr

/-! ### Their number -/

theorem Kept.openCounted {s t : State} {q' : Port} {r : RingId} {sd : Side} (h : Kept s t q' r sd)
    (hs : SideStep s t q' r sd) (hc : s.OpenCounted r sd) : t.OpenCounted r sd := by
  have hweight : ∀ g : Port → Nat, (s.port.holds r sd = true → g q' = g s.port) → t.weight r sd g = s.weight r sd g := by
    intro g hg
    have hsum := hs.weight g
    rw [h.holds] at hsum
    split at hsum
    · rw [hg (by assumption)] at hsum
      omega
    · omega
  have hone := hweight (fun _ => 1) fun _ => rfl
  have hlen := hweight (fun q => q.lat.k.toNat) fun hh => congrArg BitVec.toNat (h.range hh).2
  rw [openCounted_iff] at hc ⊢
  simp only [hs.cfg, h.held hs, State.span, h.head, h.tail hs.cfg, h.headcnt, h.tailcnt, hone, hlen] at hc ⊢
  exact hc

theorem Taken.openCounted {s t : State} {q' : Port} {r : RingId} {sd : Side} (h : Taken s t q' r sd)
    (hs : SideStep s t q' r sd) (ho : s.InOrder r) (hc : s.OpenCounted r sd) : t.OpenCounted r sd := by
  have hweight : ∀ g : Port → Nat, t.weight r sd g = s.weight r sd g + g q' := by
    intro g
    have hsum := hs.weight g
    rw [h.before, h.after] at hsum
    simpa using hsum
  have hheld : ¬ ∀ p oh k, ¬ t.Held r sd p oh k := fun hno =>
    hno s.cur s.lat.oh s.lat.k ((h.held_iff hs _ _ _).mpr (.inr ⟨rfl, rfl, rfl⟩))
  rw [openCounted_iff] at hc ⊢
  rw [hs.cfg]
  cases hd : syncOf s.cfg r sd <;> simp only [hd] at hc ⊢
  case rts =>
    have htail : t.tailcnt r sd = s.tailcnt r sd := by rw [State.tailcnt, State.tailcnt, h.word]
    rw [h.count hd, htail, hweight, BitVec.ofNat_add, ← hc]
    bv_omega
  case mt => rw [h.span ho, hc, hweight, h.lat, State.lat]
  case st => exact fun hno => absurd hno hheld
  case hts => exact fun hno => absurd hno hheld

theorem Given.openCounted {s t : State} {q' : Port} {r : RingId} {sd : Side} {e : U32} (h : Given s t q' r sd e)
    (hs : SideStep s t q' r sd) (hc : s.OpenCounted r sd) : t.OpenCounted r sd := by
  have hweight : ∀ g : Port → Nat, s.weight r sd g = t.weight r sd g + g s.port := by
    intro g
    have hsum := hs.weight g
    rw [h.before, h.after] at hsum
    simpa using hsum.symm
  rw [openCounted_iff] at hc ⊢
  rw [hs.cfg]
  cases hd : syncOf s.cfg r sd <;> simp only [hd] at hc ⊢
  case rts =>
    obtain ⟨hhead, htail⟩ := h.rts hd
    rw [hweight, BitVec.ofNat_add] at hc
    rw [hhead, htail]
    bv_omega
  case mt =>
    have hhead : t.headw r sd = s.headw r sd := by
      rcases h.head with hhead | ⟨-, -, hex | hex⟩
      · exact hhead
      · rw [hd] at hex
        cases hex
      · rw [hd] at hex
        cases hex
    rw [h.span_of_head hhead, hc, hweight, h.mt hd, State.lat]
    omega
  case st => exact fun _ => (h.only (.inl hd)).1
  case hts => exact fun _ => (h.only (.inr hd)).1

/-- The number of reservations after one step. -/
theorem Change.openCounted {s t : State} {q' : Port} {r : RingId} {sd : Side} (h : Change s t q' r sd)
    (hs : SideStep s t q' r sd) (ho : s.InOrder r) (hc : s.OpenCounted r sd) : t.OpenCounted r sd := by
  cases h with
  | keeps h => exact h.openCounted hs hc
  | takes h => exact h.openCounted hs ho hc
  | gives e h => exact h.openCounted hs hc

/-- There are at most as many reservations as positions. -/
theorem count_le_span {s : State} {r : RingId} {sd : Side} (h : s.Ranges r sd) :
    s.weight r sd (fun _ => 1) ≤ s.span r sd := by
  have hoffsets : ((s.ports.filter fun q => q.holds r sd).map fun q => (q.lat.oh - s.tailview r sd).toNat).Nodup := by
    rw [List.Nodup, List.pairwise_map, List.pairwise_filter, List.pairwise_iff_getElem]
    intro i j hi hj hij hhi hhj heq
    have hheldi : s.Held r sd i _ _ := ⟨_, List.getElem?_eq_getElem hi, hhi, rfl, rfl⟩
    have hheldj : s.Held r sd j _ _ := ⟨_, List.getElem?_eq_getElem hj, hhj, rfl, rfl⟩
    obtain ⟨hki, -, hmeet⟩ := h i _ _ hheldi
    obtain ⟨hkj, -, -⟩ := h j _ _ hheldj
    have hposi := toNat_pos_of_ne_zero hki
    have hposj := toNat_pos_of_ne_zero hkj
    have := hmeet j _ _ hheldj (by omega)
    omega
  have hsub : ((s.ports.filter fun q => q.holds r sd).map fun q => (q.lat.oh - s.tailview r sd).toNat) ⊆
      List.range (s.span r sd) := by
    intro x hx
    obtain ⟨q, hq, rfl⟩ := List.mem_map.mp hx
    obtain ⟨hmem, hh⟩ := List.mem_filter.mp hq
    obtain ⟨p, hp⟩ := List.mem_iff_getElem?.mp hmem
    obtain ⟨hk, hlen, -⟩ := h p _ _ ⟨q, hp, hh, rfl, rfl⟩
    have hpos := toNat_pos_of_ne_zero hk
    exact List.mem_range.mpr (by omega)
  have hlen := (List.subperm_of_subset hoffsets hsub).length_le
  rw [List.length_map, List.length_range] at hlen
  rw [State.weight, ← countP_eq_sum, List.countP_eq_length_filter]
  exact hlen

/-- If there is one reservation, it is the granted port's. -/
theorem only_of_count_one {s : State} {r : RingId} {sd : Side} (g : s.granted) (hcount : s.weight r sd (fun _ => 1) = 1)
    (hcur : s.port.holds r sd = true) (p : Nat) (oh k : U32) (hne : p ≠ s.cur) : ¬ s.Held r sd p oh k := by
  rintro ⟨q, hq, hh, -, -⟩
  have hsum := sum_filter_set (fun q => q.holds r sd) (fun _ => 1) Port.reset s.ports s.cur g
  rw [← State.port_eq s g, hcur] at hsum
  rw [State.weight] at hcount
  have hreset : Port.reset.holds r sd = false := rfl
  simp only [hreset, if_true, Bool.false_eq_true, if_false, hcount] at hsum
  have hzero : ((s.ports.set s.cur Port.reset).filter fun q => q.holds r sd) = [] := by
    rw [← List.length_eq_zero_iff]
    simp at hsum
    simpa using hsum
  have hmem : q ∈ (s.ports.set s.cur Port.reset).filter fun q => q.holds r sd := by
    refine List.mem_filter.mpr ⟨List.mem_of_getElem? (i := p) ?_, hh⟩
    rw [List.getElem?_set_ne hne.symm]
    exact hq
  rw [hzero] at hmem
  cases hmem

end Sys2Proof.Machine
end

section
/-! PROOFS. What every port knows of a side stays true under a step of any port (rules R124, R136, R139), and with it the ring
invariant (rules R23, R141, R296). -/

namespace Sys2Proof.Machine

/-! ### Ports by stage -/

theorem PortOk.of_out {s : State} {r : RingId} {sd : Side} {p : Nat} {q : Port} (h : q.stage r sd = .out) :
    PortOk s r sd p q where
  candidate l b hst := by simp [h] at hst
  holder l b hst := by simp [h] at hst
  jump hst := by simp [h] at hst

theorem PortOk.of_reserving {s : State} {r : RingId} {sd : Side} {p : Nat} {q : Port} {l : Label} {b : Bool}
    (h : q.stage r sd = .reserving l b) (hc : Candidate s r sd l b q.lat) : PortOk s r sd p q where
  candidate l' b' hst := by
    rw [h] at hst
    cases hst
    exact hc
  holder l' b' hst := by simp [h] at hst
  jump hst := by simp [h] at hst

theorem PortOk.of_holding {s : State} {r : RingId} {sd : Side} {p : Nat} {q : Port} {l : Label} {b : Bool}
    (h : q.stage r sd = .holding l b) (hh : Holder s r sd l b q.lat) (hj : s.JumpSound p q r sd) : PortOk s r sd p q where
  candidate l' b' hst := by simp [h] at hst
  holder l' b' hst := by
    rw [h] at hst
    cases hst
    exact hh
  jump _ := hj

/-- Only at `T7` is there a jump. -/
theorem jumpSound_of_ne {s : State} {r : RingId} {sd : Side} {p : Nat} {q : Port} {l : Label} {b : Bool}
    (h : q.stage r sd = .holding l b) (hl : l ≠ .t7) : s.JumpSound p q r sd := by
  obtain ⟨inner, hp, -⟩ := phase_of_holding h
  rw [jumpSound_iff]
  intro hexp
  exact absurd ((expectsTail_iff hp _).mp hexp).1 hl

theorem holding_true_ne {d : Sync} {l : Label} {b : Bool} (h : StageLegal d (.holding l b)) (hb : b = true) :
    l ≠ .m5 ∧ l ≠ .t7 := by
  subst hb
  obtain ⟨-, hl⟩ := h
  simp only [List.mem_cons, List.not_mem_nil, or_false] at hl
  rcases hl with rfl | rfl | rfl | rfl | rfl | rfl | rfl <;> decide

/-- `M5` is a line of `MT` and `T7` of `RTS`. -/
theorem sync_of_holding {d : Sync} {l : Label} {b : Bool} (h : StageLegal d (.holding l b)) :
    (l = .m5 → d = .mt) ∧ (l = .t7 → d = .rts) := by
  cases b with
  | true =>
    obtain ⟨hm5, ht7⟩ := holding_true_ne h rfl
    exact ⟨fun hl => absurd hl hm5, fun hl => absurd hl ht7⟩
  | false =>
    rcases h with rfl | hl
    · exact ⟨nofun, nofun⟩
    · cases d <;> simp only [publishLabels, List.mem_cons, List.not_mem_nil, or_false] at hl
      · subst hl
        exact ⟨nofun, nofun⟩
      · exact ⟨fun _ => rfl, by rcases hl with rfl | rfl <;> nofun⟩
      · subst hl
        exact ⟨nofun, nofun⟩
      · exact ⟨by rcases hl with rfl | rfl | rfl <;> nofun, fun _ => rfl⟩

/-- `S2` and `S3` are lines of `ST`, and there the port owns the side. -/
theorem inside_of_single {d : Sync} {q : Port} {r : RingId} {sd : Side} {l : Label} {b : Bool}
    (hst : q.stage r sd = .reserving l b) (h : StageLegal d (.reserving l b)) (hl : l ∈ [Label.s2, .s3]) :
    d = .st ∧ q.inside r sd = true := by
  obtain ⟨hmem, hpass⟩ := h
  have hd : d = .st := by
    simp only [List.mem_cons, List.not_mem_nil, or_false] at hl
    cases d <;> rcases hl with rfl | rfl <;> simp [reserveLabels] at hmem ⊢
  refine ⟨hd, ?_⟩
  rw [Port.inside_eq, hst]
  cases b with
  | true =>
    rw [hd] at hpass
    cases hpass rfl
  | false =>
    simp only [List.mem_cons, List.not_mem_nil, or_false] at hl
    rcases hl with rfl | rfl <;> rfl

theorem Port.inside_of_holds {q : Port} {r : RingId} {sd : Side} (h : q.holds r sd = true) : q.inside r sd = true := by
  rw [Port.holds_eq] at h
  rw [Port.inside_eq]
  obtain ⟨l, b, hst⟩ := isHolding_iff.mp h
  rw [hst]
  rfl

/-- Under `ST` two ports are not both inside. -/
theorem owner_unique {s : State} {r : RingId} {sd : Side} {p p' : Nat} {q q' : Port} (h : s.StOwned r sd)
    (hq : s.ports[p]? = some q) (hq' : s.ports[p']? = some q') (hi : q.inside r sd = true) (hi' : q'.inside r sd = true) :
    p = p' := by
  have howner := (h.1 p q hq hi).1
  rw [(h.1 p' q' hq' hi').1] at howner
  exact (congrArg Owner.owner howner).symm

/-! ### The other ports -/

/-- The tail that a port's availability depends on moves only forward. -/
theorem Change.avail_le {s t : State} {q' : Port} {r : RingId} {sd : Side} {oh : U32} (h : Change s t q' r sd.opp)
    (hcfg : t.cfg = s.cfg) (hs : s.InOrder r) (hoh : oh = s.headw r sd ∨ oh = s.tailview r sd) :
    avail s.cfg r sd oh (s.tailview r sd.opp) ≤ avail t.cfg r sd oh (t.tailview r sd.opp) := by
  rw [hcfg]
  cases h with
  | keeps h =>
    rw [h.tail hcfg]
    exact BitVec.le_refl _
  | takes h =>
    rw [h.tail]
    exact BitVec.le_refl _
  | gives e h =>
    rw [h.tail]
    exact avail_mono hs hoh h.le

/-- What is needed of the state before a step, on one side of an ordered ring. -/
structure SideOk (s : State) (r : RingId) (sd : Side) : Prop where
  ports : PortsSound s
  owned : syncOf s.cfg r sd = .st → s.StOwned r sd
  order : s.InOrder r
  ranges : s.Ranges r sd
  counted : s.OpenCounted r sd

theorem Candidate.other {s t : State} {q q' : Port} {r : RingId} {sd : Side} {p : Nat} {l : Label} {b : Bool}
    (h : Candidate s r sd l b q.lat) (hs : SideStep s t q' r sd) (hside : SideOk s r sd) (hc : Change s t q' r sd)
    (ho : Change s t q' r sd.opp) (hp : p ≠ s.cur) (hq : s.ports[p]? = some q) (hst : q.stage r sd = .reserving l b)
    (hexp : expects l q.lat (t.side r sd).a → expects l q.lat (s.side r sd).a) : Candidate t r sd l b q.lat := by
  have hlegal := stage_legal (hside.ports q (List.mem_of_getElem? hq)) r sd
  rw [hst] at hlegal
  refine ⟨fun hl => ?_, fun he => ?_, h.one⟩
  · obtain ⟨hd, hi⟩ := inside_of_single hst hlegal hl
    have hcur := State.getElem?_cur s hs.granted
    have hsolo : s.port.inside r sd = true → p = s.cur := fun hi' =>
      owner_unique (hside.owned hd) hq hcur hi hi'
    cases hc with
    | keeps hc =>
      rw [hc.head, hc.tail hs.cfg]
      exact h.still hl
    | takes hc => exact absurd (hsolo (hc.own hd)) hp
    | gives e hc => exact absurd (hsolo (Port.inside_of_holds hc.before)) hp
  · obtain ⟨hk, hfits⟩ := h.fits (hexp he)
    exact ⟨hk, BitVec.le_trans hfits (ho.avail_le hs.cfg hside.order (oh_of_expects (hexp he) hlegal.1))⟩

theorem Holder.other {s t : State} {q q' : Port} {r : RingId} {sd : Side} {p : Nat} {l : Label} {b : Bool}
    (h : Holder s r sd l b q.lat) (hs : SideStep s t q' r sd) (hside : SideOk s r sd) (hc : Change s t q' r sd)
    (hp : p ≠ s.cur) (hq : s.ports[p]? = some q) (hst : q.stage r sd = .holding l b) : Holder t r sd l b q.lat := by
  have hheld : s.Held r sd p q.lat.oh q.lat.k := ⟨q, hq, by rw [Port.holds_eq, hst]; rfl, rfl, rfl⟩
  have hlegal := stage_legal (hside.ports q (List.mem_of_getElem? hq)) r sd
  rw [hst] at hlegal
  cases hc with
  | keeps hc =>
    refine ⟨fun hd => ?_, fun hl => ?_, h.one⟩
    · rw [hc.head, hc.tail hs.cfg]
      exact h.whole (hs.cfg ▸ hd)
    · rw [hc.tail hs.cfg]
      exact h.turn hl
  | takes hc =>
    refine ⟨fun hd => ?_, fun hl => ?_, h.one⟩
    · exact absurd hheld (not_held_of_closed hside.ranges (hc.closed (hs.cfg ▸ hd)) _ _ _)
    · rw [hc.tail]
      exact h.turn hl
  | gives e hc =>
    refine ⟨fun hd => ?_, fun hl => ?_, h.one⟩
    · exact absurd hheld ((hc.only (hs.cfg ▸ hd)).2 _ _ _ hp)
    · have hbelow := hc.below p _ _ hp hheld
      obtain ⟨hk, -, -⟩ := hside.ranges _ _ _ ((held_own_iff hs.granted _ _).mpr ⟨hc.before, rfl, rfl⟩)
      have hpos := toNat_pos_of_ne_zero hk
      rw [hc.mt ((sync_of_holding hlegal).1 hl), h.turn hl, BitVec.sub_self, BitVec.toNat_zero] at hbelow
      omega

theorem JumpSound.other {s t : State} {q q' : Port} {r : RingId} {sd : Side} {p : Nat} {l : Label} {b : Bool}
    (h : s.JumpSound p q r sd) (hs : SideStep s t q' r sd) (hside : SideOk s r sd) (hc : Change s t q' r sd)
    (hq : s.ports[p]? = some q) (hst : q.stage r sd = .holding l b)
    (hexp : q.expectsTail (t.side r sd).b = true → q.expectsTail (s.side r sd).b = true) : t.JumpSound p q r sd := by
  have hlegal := stage_legal (hside.ports q (List.mem_of_getElem? hq)) r sd
  rw [hst] at hlegal
  obtain ⟨inner, hphase, -⟩ := phase_of_holding hst
  rw [jumpSound_iff] at h ⊢
  intro he hlast
  obtain ⟨hle, hown, hbelow⟩ := h (hexp he) hlast
  cases hc with
  | keeps hc =>
    rw [hc.tail hs.cfg, hc.span hs.cfg]
    exact ⟨hle, hown, fun p' oh k hp' hne => hbelow p' oh k ((hc.held hs p' oh k).mp hp') hne⟩
  | takes hc =>
    rw [hc.tail, hc.span hside.order]
    refine ⟨le_trans hle (Nat.le_add_right _ _), hown, fun p' oh k hp' hne => ?_⟩
    rcases (hc.held_iff hs p' oh k).mp hp' with hp' | ⟨-, rfl, -⟩
    · exact hbelow p' oh k hp' hne
    · rw [hc.oh]
      exact hle
  | gives e hc =>
    obtain ⟨hl, hw'⟩ := (expectsTail_iff hphase _).mp he
    obtain ⟨-, hw⟩ := (expectsTail_iff hphase _).mp (hexp he)
    obtain ⟨-, htail⟩ := hc.rts ((sync_of_holding hlegal).2 hl)
    rw [State.tailcnt, State.tailcnt, hw, hw'] at htail
    exact absurd htail (by bv_omega)

theorem PortOk.other {s t : State} {q q' : Port} {r : RingId} {sd : Side} {p : Nat} (h : PortOk s r sd p q)
    (hs : SideStep s t q' r sd) (hside : SideOk s r sd) (hc : Change s t q' r sd) (ho : Change s t q' r sd.opp)
    (hnr : NoReuse s t) (hp : p ≠ s.cur) (hq : s.ports[p]? = some q) : PortOk t r sd p q := by
  obtain ⟨hhead, htail⟩ := hnr p q r sd hq (hs.port_other hp hq)
  cases hst : q.stage r sd with
  | out => exact .of_out hst
  | reserving l b =>
    have hphase := phase_of_reserving hst
    have hexp := hhead (by rw [Port.reserves_eq, hst]; rfl)
    rw [expectsHead_iff hphase, expectsHead_iff hphase] at hexp
    exact .of_reserving hst ((h.candidate l b hst).other hs hside hc ho hp hq hst hexp)
  | holding l b =>
    have hexp := htail (by rw [Port.holds_eq, hst]; rfl)
    exact .of_holding hst ((h.holder l b hst).other hs hside hc hp hq hst)
      (JumpSound.other (h.jump (by rw [hst]; rfl)) hs hside hc hq hst hexp)

/-! ### The port that took the step -/

theorem clamp_le {av n : U32} {beh : Beh} : clamp av n beh ≤ av := by
  unfold clamp
  cases beh <;> dsimp only <;> split
  · assumption
  · exact BitVec.le_def.mpr (Nat.zero_le _)
  · assumption
  · exact BitVec.le_refl _

theorem clamp_exact_ne_zero {av n : U32} (h : clamp av n .exact ≠ 0#32) : clamp av n .exact = n := by
  unfold clamp at h ⊢
  dsimp only at h ⊢
  split at h
  · rw [if_pos (by assumption)]
  · exact absurd rfl h

/-- A port that has loaded nothing yet, or only the head. -/
theorem candidate_of_look {s : State} {r : RingId} {sd : Side} {l : Label} {b : Bool} {x : Latches}
    (hl : l ∉ [Label.s2, .s3, .m3, .h3, .t4]) (hone : b = true → x.n = 1#32 ∧ x.beh = .exact) :
    Candidate s r sd l b x := by
  refine ⟨fun hl' => ?_, fun he => ?_, fun hb => ⟨(hone hb).1, (hone hb).2, fun hl' => ?_⟩⟩
  · exact absurd (by simp only [List.mem_cons, List.not_mem_nil, or_false] at hl' ⊢; tauto) hl
  · cases l <;> simp_all [expects]
  · subst hl'
    exact absurd (by decide) hl

theorem not_ready_of_lookLabels {l : Label} (h : l ∈ lookLabels) : l ∉ [Label.s2, .s3, .m3, .h3, .t4] := by
  simp only [lookLabels, List.mem_cons, List.not_mem_nil, or_false] at h
  rcases h with rfl | rfl | rfl | rfl | rfl | rfl | rfl <;> decide

theorem reserveFirst_not_ready (d : Sync) : reserveFirst d ∉ [Label.s2, .s3, .m3, .h3, .t4] := by cases d <;> decide

/-- A port that has computed `L.K`. -/
theorem candidate_of_find {s t : State} {r : RingId} {sd : Side} {l l' : Label} {b : Bool} {x x' : Latches}
    (h : Candidate s r sd l b x) (hl : (l, l') ∈ findLabels) (hcfg : t.cfg = s.cfg) (hside : t.side r sd = s.side r sd)
    (htail : t.tailview r sd.opp = s.tailview r sd.opp)
    (hf : Found (fun oh => avail s.cfg r sd oh (s.tailview r sd.opp)) x x') (hk : x'.k ≠ 0#32) :
    Candidate t r sd l' b x' := by
  have hhead : t.headw r sd = s.headw r sd := by rw [headw_eq, headw_eq, hside]
  have hown : t.tailview r sd = s.tailview r sd := tailview_congr hcfg (by rw [hside]) (by rw [hside])
  refine ⟨fun hl' => ?_, fun _ => ⟨hk, ?_⟩, fun hb => ?_⟩
  · have hl2 : l = .s2 := by
      simp only [findLabels, List.mem_cons, List.not_mem_nil, or_false, Prod.mk.injEq] at hl
      rcases hl with ⟨rfl, rfl⟩ | ⟨rfl, rfl⟩ | ⟨rfl, rfl⟩ | ⟨rfl, rfl⟩ <;> simp at hl' ⊢
    rw [hhead, hown, hf.oh]
    exact h.still (by rw [hl2]; decide)
  · rw [hf.k, hf.oh, hcfg, htail]
    exact clamp_le
  · obtain ⟨hn, hbeh, -⟩ := h.one hb
    refine ⟨hf.n.trans hn, hf.beh.trans hbeh, fun _ => ?_⟩
    rw [hf.k, hbeh, hn] at hk ⊢
    exact clamp_exact_ne_zero hk

/-- The port that has just reserved. -/
theorem holder_of_taken {s t : State} {q' : Port} {r : RingId} {sd : Side} {l l' : Label} {b : Bool} {a a' : U64}
    (h : Taken s t q' r sd) (hcfg : t.cfg = s.cfg) (hc : Candidate s r sd l b s.lat)
    (hlegal : StageLegal (syncOf s.cfg r sd) (.reserving l b)) (htakes : Takes (syncOf s.cfg r sd) l s.lat a a')
    (hl' : l' = if b then .x1 else .cp) : Holder t r sd l' b q'.lat := by
  rw [h.lat]
  refine ⟨fun hd => ⟨?_, ?_⟩, fun hm5 => ?_, fun hb _ => ?_⟩
  · rw [h.tail, h.oh]
    exact h.closed (hcfg ▸ hd)
  · rw [h.head, h.oh]
  · rw [hl'] at hm5
    cases b <;> cases hm5
  · have hd := hlegal.2 hb
    rw [hd] at htakes
    cases htakes
    exact (hc.one hb).2.2 rfl

/-- Under `RTS` the last publisher is the only port with a reservation. -/
theorem only_of_last {s : State} {r : RingId} {sd : Side} (g : s.granted) (hside : SideOk s r sd)
    (hd : syncOf s.cfg r sd = .rts) (hholds : s.port.holds r sd = true)
    (hlast : hiOf (s.side r sd).b + 1#32 = hiOf (s.side r sd).a) (p : Nat) (oh k : U32) (hne : p ≠ s.cur) :
    ¬ s.Held r sd p oh k := by
  have hcount := openCounted_iff.mp hside.counted
  simp only [hd] at hcount
  have hle := count_le_span hside.ranges
  have hspan := (s.headw r sd - s.tailview r sd).isLt
  have hone : BitVec.ofNat 32 (s.weight r sd fun _ => 1) = 1#32 := by
    rw [← hcount, State.headcnt, State.tailcnt, ← hlast]
    bv_omega
  have hnat := congrArg BitVec.toNat hone
  rw [BitVec.toNat_ofNat, Nat.mod_eq_of_lt (lt_of_le_of_lt hle hspan)] at hnat
  exact only_of_count_one g hnat hholds p oh k hne

theorem Candidate.congr {s t : State} {r : RingId} {sd : Side} {l : Label} {b : Bool} {x : Latches}
    (h : Candidate s r sd l b x) (hcfg : t.cfg = s.cfg) (hsame : t.side r sd = s.side r sd)
    (htail : t.tailview r sd.opp = s.tailview r sd.opp) : Candidate t r sd l b x := by
  have hhead : t.headw r sd = s.headw r sd := by rw [headw_eq, headw_eq, hsame]
  have hown : t.tailview r sd = s.tailview r sd := tailview_congr hcfg (by rw [hsame]) (by rw [hsame])
  refine ⟨fun hl => ?_, fun he => ?_, h.one⟩
  · rw [hhead, hown]
    exact h.still hl
  · rw [hsame] at he
    rw [hcfg, htail]
    exact h.fits he

/-- The port has taken the side, which has nothing open. -/
theorem candidate_of_own {s t : State} {r : RingId} {sd : Side} {b : Bool} {x x' : Latches} (hside : SideOk s r sd)
    (h : Candidate s r sd .s1 b x) (hd : syncOf s.cfg r sd = .st) (hcfg : t.cfg = s.cfg)
    (ha : (t.side r sd).a = (s.side r sd).a) (hb : (t.side r sd).b = (s.side r sd).b)
    (hv : (s.side r sd).sown.valid = false) (hn : x'.n = x.n) (hbeh : x'.beh = x.beh) (hoh : x'.oh = s.headw r sd) :
    Candidate t r sd .s2 b x' := by
  have hnone : ∀ p oh k, ¬ s.Held r sd p oh k := by
    rintro p oh k ⟨q, hq, hh, -, -⟩
    have howner := ((hside.owned hd).1 p q hq (Port.inside_of_holds hh)).1
    rw [howner] at hv
    cases hv
  have hcount := openCounted_iff.mp hside.counted
  simp only [hd] at hcount
  have hhead : t.headw r sd = s.headw r sd := congrArg loOf ha
  refine ⟨fun _ => ⟨hhead.trans hoh.symm, ?_⟩, False.elim, fun hpass => ?_⟩
  · rw [tailview_congr hcfg ha hb, hoh, hcount hnone]
  · obtain ⟨hn', hbeh', -⟩ := h.one hpass
    exact ⟨hn.trans hn', hbeh.trans hbeh', nofun⟩

/-- The granted port's jump, after a step that leaves the side as it is. -/
theorem jumpSound_own {s t : State} {q' : Port} {r : RingId} {sd : Side} {l : Label} {b : Bool}
    (h : SideStep s t q' r sd) (hst : s.port.stage r sd = .holding l b) (hst' : q'.stage r sd = .holding l b)
    (hlat : q'.lat = s.lat) (hsame : t.side r sd = s.side r sd) (hj : s.JumpSound s.cur s.port r sd) :
    t.JumpSound s.cur q' r sd := by
  obtain ⟨inner, hphase, -⟩ := phase_of_holding hst
  obtain ⟨inner', hphase', -⟩ := phase_of_holding hst'
  have hhead : t.headw r sd = s.headw r sd := by rw [headw_eq, headw_eq, hsame]
  have hown : t.tailview r sd = s.tailview r sd := tailview_congr h.cfg (by rw [hsame]) (by rw [hsame])
  rw [jumpSound_iff, expectsTail_iff hphase] at hj
  rw [jumpSound_iff, expectsTail_iff hphase', hlat, hsame, State.span, hhead, hown]
  intro he hlast
  obtain ⟨hle, hmine, hbelow⟩ := hj he hlast
  refine ⟨hle, hmine, fun p oh k hp hne => ?_⟩
  rcases (h.held_iff p oh k).mp hp with ⟨-, hp⟩ | ⟨hp, -⟩
  · exact hbelow p oh k hp hne
  · exact absurd hp hne

theorem SideStep.own_portOk {s t : State} {q' : Port} {r : RingId} {sd : Side} (h : SideStep s t q' r sd)
    (hside : SideOk s r sd) (hok : PortOk s r sd s.cur s.port) (hc : Change s t q' r sd)
    (htail : t.tailview r sd.opp = s.tailview r sd.opp) : PortOk t r sd s.cur q' := by
  have hlegal := stage_legal (hside.ports _ (port_mem h.granted)) r sd
  have hmove := h.move
  generalize hst : s.port.stage r sd = a at hmove
  generalize hst' : q'.stage r sd = a' at hmove
  generalize hx : s.lat = x at hmove
  generalize hx' : q'.lat = x' at hmove
  generalize hw : s.side r sd = w at hmove
  generalize hw' : t.side r sd = w' at hmove
  rw [hst] at hlegal
  have hholder : ∀ {l l' : Label} {b : Bool}, s.port.stage r sd = .holding l b → t.side r sd = s.side r sd →
      q'.lat.oh = s.lat.oh → q'.lat.k = s.lat.k → (l' = .m5 → q'.lat.oh = t.tailview r sd) →
      Holder t r sd l' b q'.lat := by
    intro l l' b hstage hsame hoh hk hturn
    have hold : Holder s r sd l b s.lat := hok.holder l b hstage
    have hhead : t.headw r sd = s.headw r sd := by rw [headw_eq, headw_eq, hsame]
    have hown : t.tailview r sd = s.tailview r sd := tailview_congr h.cfg (by rw [hsame]) (by rw [hsame])
    refine ⟨fun hd => ?_, hturn, fun hb _ => ?_⟩
    · rw [hoh, hk, hhead, hown]
      exact hold.whole (h.cfg ▸ hd)
    · rw [hst.symm.trans hstage] at hlegal
      rw [hk, hold.one hb (holding_true_ne hlegal hb).1]
  cases hmove with
  | away => exact .of_out hst'
  | nothing => exact .of_out hst'
  | ownNothing => exact .of_out hst'
  | takeNothing => exact .of_out hst'
  | give => exact .of_out hst'
  | still =>
    subst hx
    have hsame := hw'.trans hw.symm
    cases a with
    | out => exact .of_out hst'
    | reserving l b =>
      have hcand : Candidate s r sd l b s.lat := hok.candidate l b hst
      exact .of_reserving hst' (hx' ▸ hcand.congr h.cfg hsame htail)
    | holding l b =>
      have hown : t.tailview r sd = s.tailview r sd := tailview_congr h.cfg (by rw [hsame]) (by rw [hsame])
      refine .of_holding hst' (hholder hst hsame (by rw [hx']) (by rw [hx']) fun hl => ?_)
        (jumpSound_own h hst hst' hx' hsame (hok.jump (by rw [hst]; rfl)))
      rw [hx', hown]
      exact (hok.holder l b hst).turn hl
  | enter b _ _ _ hb =>
    subst hx'
    exact .of_reserving hst' (candidate_of_look (reserveFirst_not_ready _) hb)
  | look l l' b _ _ _ hd hl' hn hbeh =>
    subst hx hx'
    have hcand : Candidate s r sd l b s.lat := hok.candidate l b hst
    refine .of_reserving hst' (candidate_of_look (not_ready_of_lookLabels hl') fun hb => ?_)
    exact ⟨hn.trans (hcand.one hb).1, hbeh.trans (hcand.one hb).2.1⟩
  | find l l' b _ _ _ hl hf hk =>
    subst hx hx'
    exact .of_reserving hst' (candidate_of_find (hok.candidate l b hst) hl h.cfg (hw'.trans hw.symm) htail hf hk)
  | own b _ _ _ hd hv hn hbeh hoh =>
    subst hx hx' hw
    exact .of_reserving hst' (candidate_of_own hside (hok.candidate _ b hst) hd h.cfg (by rw [hw']) (by rw [hw']) hv hn hbeh
      hoh)
  | take l l' b _ _ a' hk htakes hl' =>
    subst hx
    cases hc with
    | keeps hc =>
      have hholds := hc.holds
      rw [Port.holds_eq, Port.holds_eq, hst, hst'] at hholds
      cases hholds
    | gives e hc =>
      have hafter := hc.after
      rw [Port.holds_eq, hst'] at hafter
      cases hafter
    | takes hc =>
      refine .of_holding hst' (holder_of_taken hc h.cfg (hok.candidate l b hst) hlegal htakes hl')
        (jumpSound_of_ne hst' ?_)
      rw [hl']
      split <;> nofun
  | hold l l' b _ _ _ hl' hoh hk =>
    subst hx hx'
    simp only [List.mem_cons, List.not_mem_nil, or_false, not_or] at hl'
    obtain ⟨-, hm5, ht7⟩ := hl'
    exact .of_holding hst' (hholder hst (hw'.trans hw.symm) hoh hk fun hl => absurd hl hm5) (jumpSound_of_ne hst' ht7)
  | turn b _ _ hd ht =>
    subst hx hw
    refine .of_holding hst' (hholder hst hw' (by rw [hx']) (by rw [hx']) fun _ => ?_) (jumpSound_of_ne hst' nofun)
    have hne : syncOf t.cfg r sd ≠ .hts := by
      rw [h.cfg, hd]
      nofun
    rw [hx', tailview_of_ne_hts hne, hw', ht]
  | readHead b _ _ hd =>
    subst hx hw
    refine .of_holding hst' (hholder hst hw' (by rw [hx']) (by rw [hx']) nofun) ?_
    obtain ⟨inner', hphase', -⟩ := phase_of_holding hst'
    have hholds : s.port.holds r sd = true := by
      rw [Port.holds_eq, hst]
      rfl
    obtain ⟨-, hlen, -⟩ := hside.ranges _ _ _ ((held_own_iff h.granted _ _).mpr ⟨hholds, rfl, rfl⟩)
    have hhead : t.headw r sd = s.headw r sd := by rw [headw_eq, headw_eq, hw']
    have hown : t.tailview r sd = s.tailview r sd := tailview_congr h.cfg (by rw [hw']) (by rw [hw'])
    rw [jumpSound_iff, expectsTail_iff hphase', hx', hw', State.span, hhead, hown]
    rintro ⟨-, hotw⟩ hlast
    rw [← hotw] at hlast
    refine ⟨le_refl _, hlen, fun p oh k hp hne => ?_⟩
    rcases (h.held_iff p oh k).mp hp with ⟨-, hp⟩ | ⟨hp, -⟩
    · exact absurd hp (only_of_last h.granted hside hd hholds hlast p oh k hne)
    · exact absurd hp hne
  | giveNext l _ _ _ _ hgives hn hbeh =>
    subst hx'
    exact .of_reserving hst' (candidate_of_look (by decide) fun _ => ⟨hn, hbeh⟩)

/-! ### The ring invariant -/

/-- A side on which the step is no move. -/
theorem RingStep.kept {s t : State} {q' : Port} {r r' : RingId} {sd sd' : Side} (h : RingStep s t q' r sd)
    (ho : OtherSide r sd r' sd') : Kept s t q' r' sd' := by
  have hbefore : s.port.holds r' sd' = false := by rw [Port.holds_eq, h.before r' sd' ho, Stage.isHolding_out]
  have hafter : q'.holds r' sd' = false := by rw [Port.holds_eq, h.after r' sd' ho, Stage.isHolding_out]
  have hsame := h.others r' sd' ho
  refine ⟨by rw [hsame], by rw [hsame], hafter.trans hbefore.symm, fun hh => ?_⟩
  rw [hbefore] at hh
  cases hh

theorem opp_ne (sd : Side) : sd.opp ≠ sd := by cases sd <;> nofun

theorem sideOk_of_ringOk {s : State} {r : RingId} (hports : PortsSound s)
    (hown : ∀ sd, syncOf s.cfg r sd = .st → s.StOwned r sd) (h : s.RingOk r) (sd : Side) : SideOk s r sd := by
  obtain ⟨horder, hsides⟩ := ringOk_iff.mp h
  obtain ⟨hranges, hcounted, -⟩ := hsides sd
  exact ⟨hports, hown sd, horder, hranges, hcounted⟩

/-- The change of every side of an ordered ring, of which at most one moves. -/
theorem RingStep.changes {s t : State} {q' : Port} {r0 r : RingId} {sd0 : Side} (h : RingStep s t q' r0 sd0)
    (hports : PortsSound s) (hring : s.RingOk r) :
    (∀ sd, Change s t q' r sd) ∧ ∃ sd, Change s t q' r sd ∧ Kept s t q' r sd.opp := by
  obtain ⟨-, hsides⟩ := ringOk_iff.mp hring
  have hall : ∀ sd, Change s t q' r sd := fun sd => by
    obtain ⟨hranges, -, hok⟩ := hsides sd
    exact (h.sideStep r sd).change hports (hok _ _ (State.getElem?_cur s h.granted)) hranges
  refine ⟨hall, ?_⟩
  by_cases hr : r = r0
  · subst hr
    exact ⟨sd0, hall sd0, h.kept (.inr (opp_ne sd0))⟩
  · exact ⟨.prod, hall .prod, h.kept (.inl hr)⟩

theorem RingStep.ringOk {s t : State} {q' : Port} {r0 r : RingId} {sd0 : Side} (h : RingStep s t q' r0 sd0)
    (hports : PortsSound s) (hown : ∀ sd, syncOf s.cfg r sd = .st → s.StOwned r sd) (hring : s.RingOk r)
    (hnr : NoReuse s t) : t.RingOk r := by
  obtain ⟨horder, hsides⟩ := ringOk_iff.mp hring
  obtain ⟨hall, sd1, hchange, hkept⟩ := h.changes hports hring
  refine ringOk_iff.mpr ⟨hchange.inOrder hkept h.cfg horder, fun sd => ?_⟩
  obtain ⟨hranges, hcounted, hok⟩ := hsides sd
  have hs := h.sideStep r sd
  have hside := sideOk_of_ringOk hports hown hring sd
  refine ⟨(hall sd).ranges hs horder hranges, (hall sd).openCounted hs horder hcounted, fun p q hq => ?_⟩
  rcases hs.port_cases hq with ⟨rfl, rfl⟩ | ⟨hp, hq⟩
  · by_cases hne : (r, sd) = (r0, sd0)
    · cases hne
      exact hs.own_portOk hside (hok _ _ (State.getElem?_cur s h.granted)) (hall _)
        ((h.kept (.inr (opp_ne _))).tail h.cfg)
    · exact .of_out (h.after r sd (otherSide_of_ne hne))
  · exact (hok p q hq).other hs hside (hall sd) (hall sd.opp) hnr hp hq

/-- Settles O55: a step is a move on one side, and every move keeps the order of the counters, the reservations and what
each port knows of them. -/
theorem ringOrderKept : Obligations.RingOrderKept := by
  intro s t r hs hown hring h hnr
  cases step_moves hs h with
  | still sched tick freech ht =>
    subst ht
    exact hring
  | reset cfg hev sched tick ht =>
    subst ht
    exact resetWith_ringOk cfg r
  | moves p sched tick q' r0 sd0 hmove =>
    obtain ⟨-, -, -, -, -, -, hports⟩ := hs
    exact hmove.ringOk (s := s.withOwn p sched tick) hports hown hring hnr

end Sys2Proof.Machine
end

section
/-! PROOFS. The contents of the rings (rules R26, R65, R130): what has been written stays written, a producer fills what it
has reserved before it publishes, and so no step reads a slot that holds no value. -/

namespace Sys2Proof.Machine

/-! ### What a write leaves in storage -/

/-- Reading bytes that all hold a value. -/
theorem Memory.readBytes_ne_none {m : Memory} : ∀ {n a : Nat}, (∀ b, b < n → (m.read (a + b)).isSome = true) →
    m.readBytes a n ≠ none
  | 0, _, _ => nofun
  | n + 1, a, h => by
    have hrest : m.readBytes (a + 1) n ≠ none := Memory.readBytes_ne_none fun b hb => by
      have hnext := h (b + 1) (by omega)
      rwa [Nat.add_comm b 1, ← Nat.add_assoc] at hnext
    obtain ⟨v, hv⟩ := Option.isSome_iff_exists.mp (h 0 (by omega))
    obtain ⟨vs, hvs⟩ := Option.ne_none_iff_exists'.mp hrest
    rw [Nat.add_zero] at hv
    simp [Memory.readBytes, hv, hvs]

/-- The bytes that are written hold a value. -/
theorem Memory.read_writeBytes_isSome {m : Memory} (hm : m.wf = true) {vs : List Byte} {a b : Nat} (hb : b < vs.length) :
    ((m.writeBytes a vs).read (a + b)).isSome = true := by
  rw [Memory.read_writeBytes _ _ _ _ hm, if_pos (by omega), Nat.add_sub_cancel_left]
  simpa using hb

/-- No write takes a value away. -/
theorem Memory.writeBytes_keeps {m : Memory} (hm : m.wf = true) (vs : List Byte) (a : Nat) {c : Nat}
    (hc : (m.read c).isSome = true) : ((m.writeBytes a vs).read c).isSome = true := by
  by_cases h : a ≤ c ∧ c < a + vs.length
  · have hb := Memory.read_writeBytes_isSome hm (vs := vs) (a := a) (b := c - a) (by omega)
    rwa [Nat.add_sub_cancel' h.1] at hb
  · rwa [Memory.read_writeBytes _ _ _ _ hm, if_neg h]

/-- Every byte that holds a value in `s` holds one in `t`. -/
def Remembers (s t : State) : Prop :=
  ∀ r c, ((s.ring r).mem.read c).isSome = true → ((t.ring r).mem.read c).isSome = true

theorem memWrite_remembers {s t : State} {r : RingId} {a : Nat} {v : List Byte} (h : s.memWrite r a v = .ok t)
    (hs : s.StorageOk) : Remembers s t := by
  obtain ⟨-, rfl⟩ := State.memWrite_ok h
  intro r' c hc
  by_cases hr : r' = r
  · subst hr
    rw [State.setRing_ring]
    exact Memory.writeBytes_keeps (hs r').1 v a hc
  · rwa [State.setRing_ring_other _ _ _ _ hr]

theorem memWrite_holds {s t : State} {r : RingId} {a b : Nat} {v : List Byte} (h : s.memWrite r a v = .ok t)
    (hs : s.StorageOk) (hb : b < v.length) : ((t.ring r).mem.read (a + b)).isSome = true := by
  obtain ⟨-, rfl⟩ := State.memWrite_ok h
  rw [State.setRing_ring]
  exact Memory.read_writeBytes_isSome (hs r).1 hb

theorem copyIn_remembers {s t : State} {r : RingId} {k : Nat} (h : s.copyIn r k = .ok t) (hs : s.StorageOk) :
    Remembers s t := by
  induction k generalizing t with
  | zero =>
    cases h
    exact fun _ _ hc => hc
  | succ k ih =>
    unfold State.copyIn at h
    split at h
    · cases h
    · rename_i u hu
      exact fun r' c hc => memWrite_remembers h (copyIn_storageOk hu hs) r' c (ih hu r' c hc)

/-- After the copy of an enqueue, each of its slots holds a value. -/
theorem copyIn_slotHeld {s t : State} {r : RingId} {k : Nat} (h : s.copyIn r k = .ok t) (hs : s.StorageOk) {j : Nat}
    (hj : j < k) : t.slotHeld r (s.lat.oh + BitVec.ofNat 32 j) := by
  rw [State.slotHeld, (copyIn_keepsOthers h).cfg]
  induction k generalizing t with
  | zero => exact absurd hj (Nat.not_lt_zero j)
  | succ k ih =>
    unfold State.copyIn at h
    split at h
    · cases h
    · rename_i u hu
      have hok := copyIn_storageOk hu hs
      intro b hb
      by_cases hlast : j = k
      · subst hlast
        exact memWrite_holds h hok (by rwa [payload_elem_length])
      · exact memWrite_remembers h hok r _ (ih hu (by omega) b hb)

/-! ### Slots that hold a value -/

theorem Remembers.slotHeld {s t : State} (h : Remembers s t) (hcfg : t.cfg = s.cfg) {r : RingId} {x : U32}
    (hx : s.slotHeld r x) : t.slotHeld r x := by
  intro b hb
  rw [hcfg] at hb ⊢
  exact h r _ (hx b hb)

theorem MemMove.remembers {s t : State} {r : RingId} {sd : Side} {a : Stage} (h : MemMove s r sd a t) (hs : s.StorageOk) :
    Remembers s t := by
  rcases h with h | ⟨-, -, v, hv, h⟩
  · intro r' c hc
    rwa [h]
  · intro r' c hc
    rw [h]
    exact copyIn_remembers hv hs r' c hc

theorem Copied.slotHeld {s t : State} {r : RingId} (h : Copied s t r) (hcfg : t.cfg = s.cfg) (hs : s.StorageOk) {x : U32}
    (hx : (x - s.lat.oh).toNat < s.lat.k.toNat) : t.slotHeld r x := by
  obtain ⟨v, hv, hmem⟩ := h
  have hslot := copyIn_slotHeld hv hs hx
  rw [BitVec.ofNat_toNat, BitVec.setWidth_eq, add_comm, BitVec.sub_add_cancel] at hslot
  intro b hb
  rw [hcfg] at hb ⊢
  rw [State.slotHeld, (copyIn_keepsOthers hv).cfg] at hslot
  rw [hmem]
  exact hslot b hb

theorem not_unwritten_of_slotHeld {s : State} {r : RingId} {x : U32} (h : s.slotHeld r x) : ¬ s.Unwritten r x :=
  Memory.readBytes_ne_none h

/-! ### Positions that are filled or being filled -/

/-- The slot at position `x` holds a value, or a producer that has reserved it stands at its copy. -/
abbrev State.FilledAt (s : State) (r : RingId) (x : U32) : Prop := s.slotHeld r x ∨ s.beingFilled r x

theorem beingFilled_iff {s : State} {r : RingId} {x : U32} :
    s.beingFilled r x ↔ ∃ q ∈ s.ports, q.Copying r ∧ (x - q.lat.oh).toNat < q.lat.k.toNat := by
  simp only [State.beingFilled, Port.Copying, and_assoc]

theorem Port.Copying.congr {q q' : Port} {r : RingId} (h : q.Copying r) (hphase : q'.phase = q.phase)
    (hlat : q'.lat = q.lat) : q'.Copying r := by
  simpa only [Port.Copying, Port.holds, Port.command, hphase, hlat] using h

/-- A position that is filled, or being filled, stays so. -/
theorem RingStep.filledAt {s t : State} {q' : Port} {r r0 : RingId} {sd0 : Side} (h : RingStep s t q' r0 sd0)
    (hmem : s.StorageOk) {x : U32} (hx : s.FilledAt r x) : t.FilledAt r x := by
  rcases hx with hx | hx
  · exact .inl ((h.mem.remembers hmem).slotHeld h.cfg hx)
  · obtain ⟨q, hq, hcopying, hlt⟩ := beingFilled_iff.mp hx
    obtain ⟨p, hp⟩ := List.mem_iff_getElem?.mp hq
    have hs := h.sideStep r .prod
    by_cases hcur : p = s.cur
    · subst hcur
      rw [State.getElem?_cur s h.granted] at hp
      cases hp
      rcases h.copies r hcopying with ⟨hphase, hlat⟩ | hcopied
      · refine .inr (beingFilled_iff.mpr ⟨q', List.mem_of_getElem? hs.port_own, hcopying.congr hphase hlat, ?_⟩)
        rwa [hlat]
      · exact .inl (hcopied.slotHeld h.cfg hmem hlt)
    · exact .inr (beingFilled_iff.mpr ⟨q, List.mem_of_getElem? (hs.port_other hcur hp), hcopying, hlt⟩)

/-! ### A producer that has just reserved -/

/-- A port outside its reservations takes the positions it comes to hold, and then it stands at its copy, or at the head
of a reclaim pass. -/
theorem Move.of_taking {d : Sync} {p : Nat} {av : U32 → U32} {a a' : Stage} {x x' : Latches} {w w' : SideRegs}
    (h : Move d p av a x w a' x' w') (ha : a.isHolding = false) (ha' : a'.isHolding = true) :
    ∃ b : Bool, a' = .holding (if b then .x1 else .cp) b := by
  cases h with
  | take l l' b _ _ _ _ _ hl' => exact ⟨b, hl' ▸ rfl⟩
  | still =>
    rw [ha] at ha'
    cases ha'
  | hold => cases ha
  | turn => cases ha
  | readHead => cases ha
  | _ => cases ha'

/-- A reclaim pass is at work on the consumer side of the defer ring. -/
theorem side_of_pass {q : Port} {r : RingId} {sd : Side} {l : Label} (h : q.stage r sd = .holding l true) :
    (r, sd) = (RingId.defer, Side.cons) := by
  unfold Port.stage stageOf at h
  repeat' split at h
  all_goals simp_all

/-- A sound port at `CP` copies. -/
theorem phase_of_copy {s : State} {q : Port} {r : RingId} {sd : Side} (hq : portSound s q = true)
    (h : q.stage r sd = .holding .cp false) : q.phase = .busy .cp [.ringop, .copy] := by
  obtain ⟨inner, hphase, hinner⟩ := phase_of_holding h
  rcases hinner rfl with rfl | rfl
  · exact hphase
  · exfalso
    unfold portSound at hq
    rw [hphase] at hq
    dsimp only at hq
    split at hq
    · rw [Bool.and_eq_true] at hq
      cases legalLine_of_lineLegal hq.2 with
      | ringop r' sd' _ _ hl => cases hd : syncOf s.cfg r' sd' <;> simp [ringopLegal, publishLabels, hd] at hl
    · cases hq

/-- The producer that has just reserved stands at its copy. -/
theorem Taken.copying {s t : State} {q' : Port} {r : RingId} (h : Taken s t q' r .prod) (hs : SideStep s t q' r .prod)
    (ht : PortsSound t) : q'.Copying r := by
  have hbefore := h.before
  have hafter := h.after
  rw [Port.holds_eq] at hbefore hafter
  obtain ⟨b, hst⟩ := hs.move.of_taking hbefore hafter
  refine ⟨h.after, ?_⟩
  cases b with
  | false => exact phase_of_copy (ht _ (List.mem_of_getElem? hs.port_own)) hst
  | true => cases side_of_pass hst

/-! ### From the consumer tail to the producer head -/

/-- The positions from the consumer tail to the producer head. -/
abbrev State.reach (s : State) (r : RingId) : Nat := (s.headw r .prod - s.tailview r .cons).toNat

/-- A position from the consumer tail to the producer head. -/
abbrev State.InReach (s : State) (r : RingId) (x : U32) : Prop := (x - s.tailview r .cons).toNat < s.reach r

/-- A position that the producer reserves in this step is one of its range. -/
theorem Taken.inReach {s t : State} {q' : Port} {r : RingId} (h : Taken s t q' r .prod) (ho : Kept s t q' r .cons)
    (hcfg : t.cfg = s.cfg) (hs : s.InOrder r) {x : U32} (hx : t.InReach r x) :
    s.InReach r x ∨ (x - s.lat.oh).toNat < s.lat.k.toNat := by
  have hroom := room_of_avail_prod hs h.fits
  have hreach := reach_of_inOrder hs
  have hc := (cap s.cfg r).isLt
  rw [State.InReach, State.reach, ho.tail hcfg, h.head] at hx
  rw [h.oh]
  by_cases hlt : s.InReach r x
  · exact .inl hlt
  · simp only [State.InReach, State.reach] at hlt
    rw [dist_add (by omega)] at hx
    have hsplit : s.tailview r .cons + (s.headw r .prod - s.tailview r .cons) = s.headw r .prod := by
      rw [add_comm, BitVec.sub_add_cancel]
    have hoff := dist_sub (h := x) (t := s.tailview r .cons) (e := s.headw r .prod - s.tailview r .cons) (by omega)
    rw [hsplit] at hoff
    exact .inr (by omega)

/-- Giving up a reservation brings no position between the consumer tail and the producer head. -/
theorem Given.inReach {s t : State} {q' : Port} {r : RingId} {sd : Side} {e : U32} (h : Given s t q' r sd e)
    (ho : Kept s t q' r sd.opp) (hcfg : t.cfg = s.cfg) (hs : s.InOrder r) {x : U32} (hx : t.InReach r x) :
    s.InReach r x := by
  have hreach := reach_of_inOrder hs
  have hc := (cap s.cfg r).isLt
  have hle := h.le
  simp only [State.InReach, State.reach, State.InOrder, State.span, State.ready] at hs hreach hle hx ⊢
  cases sd with
  | prod =>
    have htail : t.tailview r .cons = s.tailview r .cons := ho.tail hcfg
    rw [htail] at hx
    rcases h.head with hhead | ⟨hhead, -, -⟩
    · rwa [hhead] at hx
    · rw [hhead, dist_trans (x := s.tailview r .prod) (y := s.headw r .cons) (by omega)] at hx
      omega
  | cons =>
    have hhead : t.headw r .prod = s.headw r .prod := ho.head
    have hback : s.tailview r .cons + e - s.tailview r .cons = e := by
      rw [add_comm, BitVec.add_sub_cancel]
    rw [hhead, h.tail, dist_sub (h := s.headw r .prod) (by omega)] at hx
    rw [dist_trans (y := s.tailview r .cons + e) (by rw [hback]; omega), hback]
    omega

/-- A position that comes between the consumer tail and the producer head is reserved in this step. -/
theorem Change.inReach {s t : State} {q' : Port} {r : RingId} {sd : Side} (h : Change s t q' r sd)
    (ho : Kept s t q' r sd.opp) (hcfg : t.cfg = s.cfg) (hs : s.InOrder r) {x : U32} (hx : t.InReach r x) :
    s.InReach r x ∨ (Taken s t q' r .prod ∧ (x - s.lat.oh).toNat < s.lat.k.toNat) := by
  cases h with
  | keeps h =>
    refine .inl ?_
    cases sd with
    | prod =>
      have htail : t.tailview r .cons = s.tailview r .cons := ho.tail hcfg
      simpa only [State.InReach, State.reach, h.head, htail] using hx
    | cons =>
      have hhead : t.headw r .prod = s.headw r .prod := ho.head
      simpa only [State.InReach, State.reach, hhead, h.tail hcfg] using hx
  | takes h =>
    cases sd with
    | prod => exact (h.inReach ho hcfg hs hx).imp_right fun hlt => ⟨h, hlt⟩
    | cons =>
      have hhead : t.headw r .prod = s.headw r .prod := ho.head
      refine .inl ?_
      simpa only [State.InReach, State.reach, hhead, h.tail] using hx
  | gives e h => exact .inl (h.inReach ho hcfg hs hx)

/-! ### The contents of an ordered ring -/

theorem RingStep.filled {s t : State} {q' : Port} {r r0 : RingId} {sd0 : Side} (h : RingStep s t q' r0 sd0)
    (hports : PortsSound s) (ht : PortsSound t) (hmem : s.StorageOk) (hring : s.RingOk r) (hfilled : s.Filled r) :
    t.Filled r := by
  intro x hx
  obtain ⟨-, sd, hchange, hkept⟩ := h.changes hports hring
  rcases hchange.inReach hkept h.cfg hring.1 hx with hin | ⟨htaken, hlt⟩
  · exact h.filledAt hmem (hfilled x hin)
  · have hs := h.sideStep r .prod
    refine .inr (beingFilled_iff.mpr ⟨q', List.mem_of_getElem? hs.port_own, htaken.copying hs ht, ?_⟩)
    rwa [htaken.lat]

/-- Settles O56: what a step brings into the range its port is about to copy, and what was in the range stays filled, or is
copied. -/
theorem publishedSlotsHoldValues : Obligations.PublishedSlotsHoldValues := by
  intro s t r hs _ hring hfilled h _
  obtain ⟨-, -, -, -, -, -, htports⟩ := soundKept s t hs h
  cases step_moves hs h with
  | still sched tick freech ht =>
    subst ht
    exact hfilled
  | reset cfg hev sched tick ht =>
    subst ht
    exact resetWith_filled cfg r
  | moves p sched tick q' r0 sd0 hmove =>
    obtain ⟨-, -, -, -, hmem, -, hports⟩ := hs
    rw [State.storageOk_iff] at hmem
    exact hmove.filled (s := s.withOwn p sched tick) hports htports hmem hring hfilled

/-! ### No read of an unwritten slot -/

/-- A position that a consumer has reserved lies below every position that a producer holds. -/
theorem not_beingFilled_of_span {s : State} {r : RingId} (hring : s.RingOk r) {x : U32}
    (hx : (x - s.tailview r .cons).toNat < s.span r .cons) : ¬ s.beingFilled r x := by
  obtain ⟨horder, hsides⟩ := ringOk_iff.mp hring
  rintro ⟨q, hq, hholds, -, hlt⟩
  obtain ⟨p, hp⟩ := List.mem_iff_getElem?.mp hq
  obtain ⟨-, hlen, -⟩ := (hsides .prod).1 p q.lat.oh q.lat.k ⟨q, hp, hholds, rfl, rfl⟩
  have hc := (cap s.cfg r).isLt
  simp only [State.InOrder, State.span] at horder hlen hx
  have htails := dist_trans (x := s.tailview r .prod) (y := s.headw r .cons) (z := s.tailview r .cons) (by omega)
  have hfromTail := dist_trans (x := x) (y := q.lat.oh) (z := s.tailview r .prod) (by omega)
  have hfromCons := dist_trans (x := x) (y := s.tailview r .prod) (z := s.tailview r .cons) (by omega)
  omega

/-- The slots that a consumer has reserved hold values. -/
theorem slotHeld_of_held {s : State} {r : RingId} (hring : s.RingOk r) (hfilled : s.Filled r) {p j : Nat} {oh k : U32}
    (hheld : s.Held r .cons p oh k) (hj : j < k.toNat) : s.slotHeld r (oh + BitVec.ofNat 32 j) := by
  obtain ⟨horder, hsides⟩ := ringOk_iff.mp hring
  obtain ⟨-, hlen, -⟩ := (hsides .cons).1 p oh k hheld
  have hspan := (s.headw r .cons - s.tailview r .cons).isLt
  have hreach := reach_of_inOrder horder
  have hk := k.isLt
  simp only [State.span] at hlen hreach
  have hofNat : (BitVec.ofNat 32 j).toNat = j := by rw [BitVec.toNat_ofNat, Nat.mod_eq_of_lt (by omega)]
  have hoff : (oh + BitVec.ofNat 32 j - s.tailview r .cons).toNat < s.span r .cons := by
    rw [dist_add (by rw [hofNat]; omega), hofNat]
    simp only [State.span]
    omega
  exact (hfilled _ (lt_of_lt_of_le hoff (by simp only [State.span]; omega))).resolve_right
    (not_beingFilled_of_span hring hoff)

theorem stage_of_command {q : Port} {i : Instr} (h : q.command = some i) (r : RingId) (sd : Side) :
    q.stage r sd = stageOf i r sd q.phase := by
  rw [Port.stage, h]

/-- The lines that read ring storage stand in a reservation, and read within it. -/
theorem not_readsUnwritten {i : Instr} {l : Label} {st : List Seq} {s : State} (g : s.granted)
    (hi : s.port.command = some i) (hp : s.phase = .busy l st) (hring : ∀ r, s.RingOk r ∧ s.Filled r) :
    ¬ ReadsUnwritten i l st s := by
  have hread : ∀ r j, s.port.holds r .cons = true → j < s.lat.k.toNat →
      ¬ s.Unwritten r (s.lat.oh + BitVec.ofNat 32 j) := fun r j hh hj =>
    not_unwritten_of_slotHeld (slotHeld_of_held (hring r).1 (hring r).2 ((held_own_iff g _ _).mpr ⟨hh, rfl, rfl⟩) hj)
  have hphase : s.port.phase = .busy l st := hp
  rintro (⟨r, hu, rfl, rfl, j, hj, hx⟩ | ⟨rfl, rfl, hx⟩)
  · refine hread r j ?_ hj hx
    rw [Port.holds_eq, stage_of_command hi, hphase, stageOf_ringop hu]
    rfl
  · have hst : s.port.stage .defer .cons = .holding .x1 true := by
      rw [stage_of_command hi, hphase, stageOf_pass]
      rfl
    obtain ⟨-, hsides⟩ := ringOk_iff.mp (hring .defer).1
    obtain ⟨-, -, hok⟩ := hsides .cons
    have hone : s.lat.k = 1#32 := ((hok _ _ (State.getElem?_cur s g)).holder _ _ hst).one rfl nofun
    refine hread .defer 0 ?_ ?_ ?_
    · rw [Port.holds_eq, hst]
      rfl
    · rw [hone]
      decide
    · rwa [BitVec.add_zero]

/-- Settles O57: the one stop that a sound state leaves open is the read of a reserved slot, and that slot holds a value. -/
theorem orderedRingsNeverStop : Obligations.OrderedRingsNeverStop := by
  intro s hs hring
  obtain ⟨-, -, -, -, -, hst, hports⟩ := hs
  rcases step_answers_or_runs (not_lostCommand hports) with h | ⟨i, p, sched, tick, hruns, h⟩
  · exact h
  · rw [h]
    refine (exec_answers_or_unwritten hruns hports hst).resolve_right ?_
    rintro ⟨-, l, st, hp, hreads⟩
    exact not_readsUnwritten hruns.1 (hruns.busy hports hp).1 hp hring hreads

end Sys2Proof.Machine
end

section
/-! PROOFS. Who writes the rings and `FREECH` (spec/20 rule R66): every line leaves them as they are, or writes one side, or
copies, or frees an entry; said once as `StoreEffect`. -/

namespace Sys2Proof.Machine

/-! ### Lines that write neither ring nor `FREECH` -/

/-- Both rings and `FREECH` are unchanged. -/
structure SameStore (s t : State) : Prop where
  rings : SameRings s t
  freech : t.freech = s.freech

theorem SameStore.refl (s : State) : SameStore s s := ⟨.refl s, rfl⟩

theorem SameStore.trans {s t u : State} (h : SameStore s t) (k : SameStore t u) : SameStore s u :=
  ⟨h.rings.trans k.rings, k.freech.trans h.freech⟩

theorem SameStore.updPort (s : State) (f : Port → Port) : SameStore s (s.updPort f) := ⟨⟨rfl, rfl⟩, rfl⟩

theorem SameStore.updLat (s : State) (f : Latches → Latches) : SameStore s (s.updLat f) := .updPort s _

theorem SameStore.setPhase (s : State) (ph : Phase) : SameStore s (s.setPhase ph) := .updPort s _

/-- However the line leaves its sub-sequence, `P` holds of the state it leaves. -/
abbrev Flow.All (P : State → Prop) (x : Flow) : Prop := x.Sat (fun _ _ => P) P P fun _ => True

/-- The line writes neither ring nor `FREECH`. -/
abbrev Flow.Quiet (s : State) (x : Flow) : Prop := x.All (SameStore s)

/-- `P` speaks of the rings and `FREECH` alone. -/
abbrev OfStore (P : State → Prop) : Prop := ∀ u v, P u → SameStore u v → P v

theorem sameStore_ofStore (s : State) : OfStore (SameStore s) := fun _ _ => SameStore.trans

theorem Flow.Quiet.all {P : State → Prop} {u : State} {x : Flow} (hx : x.Quiet u) (hP : OfStore P) (hu : P u) : x.All P :=
  hx.imp (fun _ _ v => hP u v hu) (fun v => hP u v hu) (fun v => hP u v hu) fun _ => id

theorem Flow.all_within {P : State → Prop} {x : Flow} {q : Seq} {k : State → Flow} (h : x.All P) (hP : OfStore P)
    (hk : ∀ u, (k u).Quiet u) : (x.within q k).All P :=
  Flow.Sat.within h (fun _ _ _ => id) (fun u hu => (hk u).all hP hu) (fun _ => id) fun _ => id

theorem Flow.quiet_within {s : State} {x : Flow} {q : Seq} {k : State → Flow} (h : x.Quiet s) (hk : ∀ u, (k u).Quiet u) :
    (x.within q k).Quiet s := Flow.all_within h (sameStore_ofStore s) hk

theorem Flow.quiet_trans {s t : State} {x : Flow} (h : SameStore s t) (k : x.Quiet t) : x.Quiet s :=
  k.all (sameStore_ofStore s) h

theorem Flow.All.outcome {P : State → Prop} {x : Flow} {t : State} (h : x.All P) (hP : OfStore P)
    (ht : x.outcome = .next t) : P t := by
  rcases Flow.outcome_next ht with ⟨l, st, u, rfl, rfl⟩ | rfl
  · exact hP u _ h (.setPhase u _)
  · exact h

theorem quiet_respond (st : Status) (n : U32) (v : U64) (s : State) : (Flow.ended (s.respond st n v)).Quiet s :=
  SameStore.updPort s _

theorem answer_quiet (st : Status) (s : State) : (answer st s).Quiet s := quiet_respond st _ _ s

/-- A change of a register outside the rings, then an answer. -/
theorem answer_quiet_of_regs {s u : State} (st : Status) (h : SameStore s u) : (answer st u).Quiet s :=
  Flow.quiet_trans h (answer_quiet st u)

theorem raiseFault_quiet (f : FaultBit) (s : State) : (raiseFault f s).Quiet s := ⟨⟨rfl, rfl⟩, rfl⟩

theorem tkinc_quiet {s : State} {k : State → Flow} (hk : ∀ u, (k u).Quiet u) : (tkinc s k).Quiet s := by
  unfold tkinc
  split
  · exact raiseFault_quiet _ s
  · exact Flow.quiet_trans (t := s.setToken (s.token + 1#64)) ⟨⟨rfl, rfl⟩, rfl⟩ (Flow.quiet_trans (.updLat _ _) (hk _))

theorem checkNext_quiet (s : State) : (checkNext s).Quiet s := by
  unfold checkNext
  split
  · have h : SameStore s (s.updLat fun l => { l with wi := l.wi + 1#32 }) := .updLat s _
    simp only
    split
    · unfold checkFin
      split
      · exact h
      · exact h.trans (.updLat _ _)
    · exact h
  · exact .refl s

theorem checkLine_quiet (l : Label) (s : State) : (checkLine l s).Quiet s := by
  unfold checkLine
  split
  · unfold checkFast
    split <;> exact .updLat s _
  · exact Flow.quiet_trans (.updLat s _) (checkNext_quiet _)
  · simp only [checkThread]
    split
    · split
      · exact .refl s
      · exact .updLat s _
    · exact Flow.quiet_trans (.updLat s _) (checkNext_quiet _)
  · exact ⟨⟨rfl, rfl⟩, rfl⟩
  · trivial

theorem countLine_quiet (r : RingId) (l : Label) (s : State) : (countLine r l s).Quiet s := by
  unfold countLine
  split
  · exact .updLat s _
  · exact .updLat s _
  · trivial

theorem reclaimLoop_quiet (s : State) : (reclaimLoop s).Quiet s := by
  unfold reclaimLoop
  split <;> exact .updLat s _

theorem reclaimCall_quiet (lim : Limit) (s : State) : (reclaimCall lim s).Quiet s :=
  Flow.quiet_trans (.updLat s _) (reclaimLoop_quiet _)

/-! ### What follows a sub-sequence -/

theorem dqEnqDone_quiet (s : State) : (dqEnqDone s).Quiet s := quiet_respond _ _ _ s

theorem afterRingopOf_quiet (i : Instr) (s : State) : (afterRingopOf i s).Quiet s := by
  unfold afterRingopOf
  rcases ringopUse i with _ | ⟨_ | _, _ | _⟩
  · trivial
  all_goals exact SameStore.updPort s _

theorem afterReclaimOf_quiet {i : Instr} {k : State → Flow} (h : afterReclaimOf i = some k) (s : State) :
    (k s).Quiet s := by
  cases i <;> cases h
  · exact dqEnqDone_quiet s
  · exact quiet_respond _ _ _ s
  · unfold dqDeletePassed
    split
    · exact quiet_respond _ _ _ s
    · exact .refl s

theorem afterCountOf_quiet (i : Instr) (s : State) : (afterCountOf i s).Quiet s := by
  cases i with
  | ringCount => exact quiet_respond _ _ _ s
  | ringFree => exact quiet_respond _ _ _ s
  | dqEnq =>
    change (dqEnqCounted s).Quiet s
    unfold dqEnqCounted
    split
    · exact Flow.quiet_within (reclaimCall_quiet _ s) dqEnqDone_quiet
    · exact dqEnqDone_quiet s
  | _ => trivial

theorem afterCheckOf_quiet {i : Instr} {k : State → Flow} (h : afterCheckOf i = some k) (s : State) : (k s).Quiet s := by
  cases i <;> cases h <;> exact quiet_respond _ _ _ s

/-! ### A command's own code -/

theorem onlyAt_quiet {first l : Label} {x : Flow} {s : State} (h : x.Quiet s) : (onlyAt first l x).Quiet s := by
  unfold onlyAt
  split
  · exact h
  · trivial

theorem ifAlive_quiet {s : State} {k : State → Flow} (h : (k s).Quiet s) : (ifAlive s k).Quiet s := by
  unfold ifAlive
  split
  · exact h
  · exact answer_quiet _ s

theorem reclaimCall_within_quiet {i : Instr} {k : State → Flow} (hk : afterReclaimOf i = some k) (lim : Limit)
    (s : State) : ((reclaimCall lim s).within .reclaimseq k).Quiet s :=
  Flow.quiet_within (reclaimCall_quiet lim s) (afterReclaimOf_quiet hk)

theorem quiescentProbe_quiet (n : Nat) (s : State) : (quiescentProbe n s).Quiet s := by
  simp only [quiescentProbe]
  split
  · exact answer_quiet_of_regs _ (.updLat s _)
  · split
    · exact answer_quiet_of_regs _ (.updLat s _)
    · exact .updLat s _

theorem syncBegin_quiet (tid : U32) (s : State) : (syncBegin tid s).Quiet s := by
  simp only [syncBegin]
  split
  · exact answer_quiet_of_regs _ (.updLat s _)
  · refine Flow.quiet_trans (.updLat s _) (tkinc_quiet fun u => ?_)
    split
    · exact .refl u
    · exact .updLat u _

theorem dqEnqBegin_quiet (s : State) : (dqEnqBegin s).Quiet s :=
  ifAlive_quiet (tkinc_quiet fun _ => ⟨⟨rfl, rfl⟩, rfl⟩)

/-- The tests of a one-line command on a thread id, each of which may end it, and the store after them. -/
theorem testedAnswer_quiet {s u : State} {p q : Prop} [Decidable p] [Decidable q] {a b c : Status} (h : SameStore s u) :
    (if p then answer a s else if q then answer b s else answer c u).Quiet s := by
  split
  · exact answer_quiet _ s
  · split
    · exact answer_quiet _ s
    · exact answer_quiet_of_regs _ h

theorem ownLine_quiet (i : Instr) (l : Label) (s : State) : (ownLine i l s).Quiet s := by
  cases i with
  | thrReg tid => exact onlyAt_quiet (testedAnswer_quiet ⟨⟨rfl, rfl⟩, rfl⟩)
  | thrUnreg tid => exact onlyAt_quiet (testedAnswer_quiet ⟨⟨rfl, rfl⟩, rfl⟩)
  | quiescent tid =>
    simp only [ownLine]
    split
    · exact quiescentProbe_quiet _ s
    · exact onlyAt_quiet (answer_quiet_of_regs _ ⟨⟨rfl, rfl⟩, rfl⟩)
  | start => exact onlyAt_quiet (tkinc_quiet fun u => quiet_respond _ _ _ u)
  | sync tid =>
    simp only [ownLine]
    split
    · exact syncBegin_quiet tid s
    · split
      · exact .updLat s _
      · exact onlyAt_quiet ⟨⟨rfl, rfl⟩, rfl⟩
  | rdLock tid =>
    refine onlyAt_quiet ?_
    unfold lockLine
    split <;> exact answer_quiet_of_regs _ ⟨⟨rfl, rfl⟩, rfl⟩
  | rdUnlock tid =>
    refine onlyAt_quiet ?_
    unfold unlockLine
    split <;> exact answer_quiet_of_regs _ ⟨⟨rfl, rfl⟩, rfl⟩
  | dqEnq => exact onlyAt_quiet (dqEnqBegin_quiet s)
  | dqReclaim n => exact onlyAt_quiet (ifAlive_quiet (reclaimCall_within_quiet (i := .dqReclaim n) rfl _ s))
  | dqDelete =>
    simp only [ownLine]
    split
    · exact ifAlive_quiet (reclaimCall_within_quiet (i := .dqDelete) rfl _ s)
    · exact onlyAt_quiet ⟨⟨rfl, rfl⟩, rfl⟩
  | csrRd reg idx =>
    refine onlyAt_quiet ?_
    unfold csrLine
    split
    · exact quiet_respond _ _ _ s
    · trivial
  | _ => trivial

/-! ### Lines that write a side -/

/-- The line writes neither ring nor `FREECH`, or it is one of `ls` and writes at most the words of side `(r, sd)`. -/
def SideWrite (s : State) (r : RingId) (sd : Side) (ls : List Label) (l : Label) (u : State) : Prop :=
  SameStore s u ∨ (l ∈ ls ∧ OnlySide s u r sd ∧ u.freech = s.freech)

theorem OnlySide.sameRings {s u v : State} {r : RingId} {sd : Side} (h : OnlySide s u r sd) (k : SameRings u v) :
    OnlySide s v r sd := h.trans (onlySide_of_sameRings k r sd)

theorem sideWrite_ofStore (s : State) (r : RingId) (sd : Side) (ls : List Label) (l : Label) :
    OfStore (SideWrite s r sd ls l) := by
  rintro u v (hu | ⟨hl, ho, hf⟩) hv
  · exact .inl (hu.trans hv)
  · exact .inr ⟨hl, ho.sameRings hv.rings, hv.freech.trans hf⟩

theorem sideWrite_setSide {s : State} {r : RingId} {sd : Side} {ls : List Label} {l : Label} (hl : l ∈ ls) (w : SideRegs) :
    SideWrite s r sd ls l (s.setSide r sd w) := .inr ⟨hl, onlySide_setSide s r sd w, by simp⟩

/-- The lines of `RESERVE` that write (spec/40 rules R125 to R128). -/
def reserveWriters : List Label := [.m3, .s1, .s2, .s3, .h3, .t4]

/-- The lines of `PUBLISH` that write (spec/40 rules R133 to R136). -/
def publishWriters : List Label := [.m5, .s4, .h4, .t7]

abbrev Flow.Writes (s : State) (r : RingId) (sd : Side) (ls : List Label) (l : Label) (x : Flow) : Prop :=
  x.All (SideWrite s r sd ls l)

theorem Flow.Quiet.writes {s : State} {r : RingId} {sd : Side} {ls : List Label} {l : Label} {x : Flow}
    (h : x.Quiet s) : x.Writes s r sd ls l :=
  h.imp (fun _ _ _ => .inl) (fun _ => .inl) (fun _ => .inl) fun _ => id

theorem loadAvail_sameStore (s : State) (r : RingId) (sd : Side) : SameStore s (s.loadAvail r sd) := ⟨⟨rfl, rfl⟩, rfl⟩

theorem reserveAvail_quiet (r : RingId) (sd : Side) (next : Label) (s : State) : (reserveAvail r sd next s).Quiet s := by
  simp only [reserveAvail]
  split <;> exact loadAvail_sameStore s r sd

theorem reserveLine_writes (r : RingId) (sd : Side) (l : Label) (s : State) :
    (reserveLine r sd l s).Writes s r sd reserveWriters l := by
  unfold reserveLine
  split
  · exact .inl (.updLat s _)
  · exact (reserveAvail_quiet r sd _ s).writes
  · unfold reserveCasMt
    split
    · exact sideWrite_setSide (by decide) _
    · exact .inl (.refl s)
  · unfold reserveOwn
    split
    · exact (raiseFault_quiet _ s).writes
    · exact .inr ⟨by decide, (onlySide_setSide s r sd _).trans (onlySide_updLat _ _ r sd), by simp⟩
  · simp only [reserveAvailSt]
    split
    · exact .inr ⟨by decide, (onlySide_of_sameRings (loadAvail_sameStore s r sd).rings r sd).trans
        (onlySide_setSide _ r sd _), by simp [(loadAvail_sameStore s r sd).freech]⟩
    · exact .inl (loadAvail_sameStore s r sd)
  · exact sideWrite_setSide (by decide) _
  · simp only [reserveLoadHts]
    split
    · exact .inl (.refl s)
    · exact .inl (.updLat s _)
  · exact (reserveAvail_quiet r sd _ s).writes
  · unfold reserveCasHts
    split
    · exact sideWrite_setSide (by decide) _
    · exact .inl (.refl s)
  · exact .inl (.updLat s _)
  · unfold reserveWaitRts
    split <;> exact .inl (.refl s)
  · exact (reserveAvail_quiet r sd _ s).writes
  · unfold reserveCasRts
    split
    · exact sideWrite_setSide (by decide) _
    · exact .inl (.refl s)
  · trivial

/-- The store of a tail is a store to its side. -/
theorem storeTail_eq_setSide (s : State) (r : RingId) (sd : Side) (v : U32) :
    ∃ w, s.storeTail r sd v = s.setSide r sd w := by
  unfold State.storeTail
  split <;> exact ⟨_, rfl⟩

theorem publishLine_writes (r : RingId) (sd : Side) (l : Label) (s : State) :
    (publishLine r sd l s).Writes s r sd publishWriters l := by
  obtain ⟨w, hw⟩ := storeTail_eq_setSide s r sd (s.lat.oh + s.lat.k)
  unfold publishLine
  split
  · unfold publishTurn
    split <;> exact .inl (.refl s)
  · rw [hw]
    exact sideWrite_setSide (by decide) w
  · unfold publishSt
    rw [hw]
    exact .inr ⟨by decide, (onlySide_setSide s r sd w).trans (onlySide_setSide _ r sd _), by simp⟩
  · exact sideWrite_setSide (by decide) _
  · exact .inl (.updLat s _)
  · exact .inl (.updLat s _)
  · unfold publishCasRts
    split
    · exact sideWrite_setSide (by decide) _
    · exact .inl (.refl s)
  · trivial

theorem cancelLine_writes (r : RingId) (sd : Side) (l : Label) (s : State) :
    (cancelLine r sd l s).Writes s r sd [.h5] l := by
  unfold cancelLine
  split
  · exact sideWrite_setSide (by decide) _
  · trivial

/-! ### What one step does to the rings and to `FREECH` -/

/-- The storage of ring `r` alone may differ. -/
structure OnlyStorage (s t : State) (r : RingId) : Prop where
  sides : ∀ r' sd', t.side r' sd' = s.side r' sd'
  storage : ∀ r', r' ≠ r → (t.ring r').mem = (s.ring r').mem
  freech : t.freech = s.freech

/-- Everything a step of the command `i` can do to the rings and to `FREECH`, by the line that does it. -/
inductive StoreEffect (i : Instr) (s t : State) : Prop
  | same (h : SameStore s t)
  /-- The copy of an enqueue (spec/40 rule R130). -/
  | copy (r : RingId) (hi : ringopUse i = some (r, .prod)) (hat : s.phase = .busy .cp [.ringop, .copy])
      (h : OnlyStorage s t r)
  /-- A reserving or publishing line of a `RINGOP` (spec/40 rules R125 to R128, R133 to R136). -/
  | ringop (r : RingId) (sd : Side) (l : Label) (st : List Seq) (hi : ringopUse i = some (r, sd))
      (hat : s.phase = .busy l (.ringop :: st)) (hl : l ∈ reserveWriters ++ publishWriters) (h : OnlySide s t r sd)
      (hf : t.freech = s.freech)
  /-- A reserving or cancelling line of a reclaim pass (spec/40 rules R127, R137). -/
  | pass (l : Label) (st : List Seq) (hi : reclaims i = true) (hat : s.phase = .busy l (.reclaimseq :: st))
      (hl : l ∈ reserveWriters ++ [.h5]) (h : OnlySide s t .defer .cons) (hf : t.freech = s.freech)
  /-- The publishing line of a reclaim pass (spec/43 rule R222). -/
  | free (m : FreeMsg) (hi : reclaims i = true) (hat : s.phase = .busy .x2 [.reclaimseq])
      (h : OnlySide s t .defer .cons) (hf : t.freech = s.freech ++ [m])

theorem storeEffect_ofStore (i : Instr) (s : State) : OfStore (StoreEffect i s) := by
  intro u v hu hv
  cases hu with
  | same h => exact .same (h.trans hv)
  | copy r hi hat h =>
    exact .copy r hi hat ⟨fun r' sd' => (side_of_sameRings hv.rings r' sd').trans (h.sides r' sd'),
      fun r' hr => (mem_of_sameRings hv.rings r').trans (h.storage r' hr), hv.freech.trans h.freech⟩
  | ringop r sd l st hi hat hl h hf => exact .ringop r sd l st hi hat hl (h.sameRings hv.rings) (hv.freech.trans hf)
  | pass l st hi hat hl h hf => exact .pass l st hi hat hl (h.sameRings hv.rings) (hv.freech.trans hf)
  | free m hi hat h hf => exact .free m hi hat (h.sameRings hv.rings) (hv.freech.trans hf)

theorem Flow.Quiet.storeEffect {i : Instr} {s : State} {x : Flow} (h : x.Quiet s) : x.All (StoreEffect i s) :=
  h.all (storeEffect_ofStore i s) (.same (.refl s))

theorem ringopReserved_quiet (s : State) : (ringopReserved s).Quiet s := by
  unfold ringopReserved
  split <;> exact .refl s

theorem memWrite_onlyStorage {s t : State} {r : RingId} {a : Nat} {v : List Byte} (h : s.memWrite r a v = .ok t) :
    (∀ r', r' ≠ r → (t.ring r').mem = (s.ring r').mem) ∧ t.freech = s.freech := by
  obtain ⟨-, rfl⟩ := State.memWrite_ok h
  exact ⟨fun r' hr => by rw [State.setRing_ring_other _ _ _ _ hr], State.setRing_freech _ _ _⟩

theorem copyIn_onlyStorage {s : State} {r : RingId} : ∀ {k : Nat} {t : State}, s.copyIn r k = .ok t → OnlyStorage s t r
  | 0, t, h => by
    cases h
    exact ⟨fun _ _ => rfl, fun _ _ => rfl, rfl⟩
  | k + 1, t, h => by
    have hsides := copyIn_side h
    unfold State.copyIn at h
    split at h
    · cases h
    · rename_i u hu
      obtain ⟨-, hmem, hfree⟩ := copyIn_onlyStorage hu
      obtain ⟨hmem', hfree'⟩ := memWrite_onlyStorage h
      exact ⟨hsides, fun r' hr => (hmem' r' hr).trans (hmem r' hr), hfree'.trans hfree⟩

/-- A line of `RESERVE`, `PUBLISH` or `CANCEL` whose writes `P` allows. -/
theorem Flow.Writes.all {P : State → Prop} {s : State} {r : RingId} {sd : Side} {ls : List Label} {l : Label} {x : Flow}
    (h : x.Writes s r sd ls l) (hsame : ∀ u, SameStore s u → P u)
    (hside : ∀ u, l ∈ ls → OnlySide s u r sd → u.freech = s.freech → P u) : x.All P := by
  have hP : ∀ u, SideWrite s r sd ls l u → P u := by
    rintro u (hu | ⟨hl, ho, hf⟩)
    · exact hsame u hu
    · exact hside u hl ho hf
  exact h.imp (fun _ _ => hP) hP hP fun _ => id

theorem ringopLine_storeEffect {i : Instr} {r : RingId} {sd : Side} {l : Label} {st : List Seq} {s : State}
    (hi : ringopUse i = some (r, sd)) (hat : s.phase = .busy l (.ringop :: st)) :
    (ringopLine r sd l st s).All (StoreEffect i s) := by
  have hclosed := storeEffect_ofStore i s
  unfold ringopLine
  split
  · exact Flow.all_within ((reserveLine_writes r sd l s).all (fun _ => .same) fun _ hl =>
      .ringop r sd l _ hi hat (List.mem_append_left _ hl)) hclosed ringopReserved_quiet
  · refine Flow.all_within (x := copyLine r sd s) ?_ hclosed fun u => .refl u
    cases sd with
    | prod =>
      simp only [copyLine]
      cases h : s.copyIn r s.lat.k.toNat with
      | error f => trivial
      | ok t => exact .copy r hi hat (copyIn_onlyStorage h)
    | cons =>
      simp only [copyLine]
      cases s.copyOut r s.lat.k.toNat with
      | error f => trivial
      | ok es => exact .same (.updLat s _)
  · exact Flow.all_within ((publishLine_writes r sd l s).all (fun _ => .same) fun _ hl =>
      .ringop r sd l _ hi hat (List.mem_append_right _ hl)) hclosed fun u => .refl u
  · trivial

theorem reclaimReserved_quiet (s : State) : (reclaimReserved s).Quiet s := by
  unfold reclaimReserved
  split
  · exact .updLat s _
  · exact .refl s

theorem reclaimRead_quiet (s : State) : (reclaimRead s).Quiet s := by
  unfold reclaimRead
  cases s.memRead .defer (addrOf s.cfg .defer s.lat.oh) (esize s.cfg .defer) with
  | error f => trivial
  | ok e => exact .updLat s _

theorem reclaimChecked_quiet (s : State) : (reclaimChecked s).Quiet s := by
  unfold reclaimChecked
  split <;> exact .refl s

theorem reclaimFree_storeEffect {i : Instr} {s : State} (hi : reclaims i = true) (hat : s.phase = .busy .x2 [.reclaimseq]) :
    (reclaimFree s).All (StoreEffect i s) :=
  (Flow.quiet_trans (.updLat _ _) (reclaimLoop_quiet _)).all (storeEffect_ofStore i s)
    (.free { ctx := s.cfg.dqCtx, element := entryElem s.lat.ent, count := 1#32 } hi hat
      (onlySide_setSide s .defer .cons _) rfl)

theorem reclaimLine_storeEffect {i : Instr} {l : Label} {st : List Seq} {s : State} (hi : reclaims i = true)
    (hat : s.phase = .busy l (.reclaimseq :: st)) : (reclaimLine l st s).All (StoreEffect i s) := by
  have hclosed := storeEffect_ofStore i s
  unfold reclaimLine
  split
  · exact Flow.all_within ((reserveLine_writes .defer .cons l s).all (fun _ => .same) fun _ hl =>
      .pass l _ hi hat (List.mem_append_left _ hl)) hclosed reclaimReserved_quiet
  · exact (reclaimRead_quiet s).storeEffect
  · exact reclaimFree_storeEffect hi hat
  · exact (Flow.quiet_within (checkLine_quiet l s) reclaimChecked_quiet).storeEffect
  · exact Flow.all_within ((cancelLine_writes .defer .cons l s).all (fun _ => .same) fun _ hl =>
      .pass l _ hi hat (List.mem_append_right _ hl)) hclosed fun u => .updLat u _
  · trivial

theorem reclaims_of_afterReclaimOf {i : Instr} {k : State → Flow} (h : afterReclaimOf i = some k) : reclaims i = true := by
  cases i <;> cases h <;> rfl

/-- The one case analysis over the labelled lines of all commands. -/
theorem lineFlow_storeEffect {i : Instr} {l : Label} {st : List Seq} {s : State} (hat : s.phase = .busy l st) :
    (lineFlow i l st s).All (StoreEffect i s) := by
  have hclosed := storeEffect_ofStore i s
  unfold lineFlow
  split
  · exact (ownLine_quiet i l s).storeEffect
  · split
    · rename_i hi
      exact Flow.all_within (ringopLine_storeEffect hi hat) hclosed (afterRingopOf_quiet i)
    · trivial
  · split
    · exact (Flow.quiet_within (countLine_quiet _ l s) (afterCountOf_quiet i)).storeEffect
    · trivial
  · split
    · rename_i hk
      exact (Flow.quiet_within (checkLine_quiet l s) (afterCheckOf_quiet hk)).storeEffect
    · trivial
  · split
    · rename_i hk
      exact Flow.all_within (reclaimLine_storeEffect (reclaims_of_afterReclaimOf hk) hat) hclosed
        (afterReclaimOf_quiet hk)
    · trivial
  · trivial

theorem enterState_sameStore (i : Instr) (u : State) : SameStore u (enterState i u) := by
  unfold enterState
  split
  · exact .updLat u _
  · split
    · exact .updLat u _
    · exact .refl u

theorem Accepted.sameStore {i : Instr} {s t : State} {m : Message} (h : Accepted i s m t) : SameStore s t := by
  cases h with
  | answered st => exact ⟨⟨rfl, rfl⟩, rfl⟩
  | entered _ _ =>
    have hlatch : SameStore s (s.popCmd.latch m) := ⟨⟨rfl, rfl⟩, rfl⟩
    exact (hlatch.trans (enterState_sameStore i _)).trans (.setPhase _ _)

/-- Everything a step can do to the rings and to `FREECH`. -/
theorem exec_storeEffect {i : Instr} {s t : State} (h : exec i s = .next t) : StoreEffect i s t := by
  cases hp : s.phase with
  | idle =>
    obtain ⟨m, rest, -, ha⟩ := exec_accepts hp h
    exact .same ha.sameStore
  | busy l st =>
    rw [exec_busy ⟨granted_of_exec h, hp⟩] at h
    exact (lineFlow_storeEffect hp).outcome (storeEffect_ofStore i s) h

/-! ### Who writes the rings and `FREECH` -/

/-- The one side that a step writes. -/
theorem OnlySide.eq_of_ne {s t : State} {r r' : RingId} {sd sd' : Side} (h : OnlySide s t r sd)
    (hne : t.side r' sd' ≠ s.side r' sd') : r' = r ∧ sd' = sd := by
  by_contra hother
  exact hne (h.2 r' sd' (not_and_or.mp hother))

/-- Settles O45: only the copy of an enqueue writes storage, only `X2` emits, and a side is written at the lines of
`reserveWriters` and `publishWriters`, at `H5` and at `X2`. -/
theorem ringWriters : Obligations.RingWriters := by
  intro i s t h
  cases exec_storeEffect h with
  | same h =>
    exact ⟨fun r hne => absurd (mem_of_sameRings h.rings r) hne,
      fun r sd hne => absurd (side_of_sameRings h.rings r sd) hne, .inl h.freech⟩
  | copy r hi hat h =>
    refine ⟨fun r' hne => ?_, fun r' sd' hne => absurd (h.sides r' sd') hne, .inl h.freech⟩
    obtain rfl : r' = r := by_contra fun hr => hne (h.storage r' hr)
    exact ⟨hi, hat⟩
  | ringop r sd l st hi hat hl h hf =>
    refine ⟨fun r' hne => absurd (h.1 r') hne, fun r' sd' hne => .inl ?_, .inl hf⟩
    obtain ⟨rfl, rfl⟩ := h.eq_of_ne hne
    refine ⟨hi, l, st, hat, ?_⟩
    revert hl
    simp only [reserveWriters, publishWriters]
    grind
  | pass l st hi hat hl h hf =>
    refine ⟨fun r' hne => absurd (h.1 r') hne, fun r' sd' hne => .inr ?_, .inl hf⟩
    obtain ⟨rfl, rfl⟩ := h.eq_of_ne hne
    refine ⟨hi, rfl, rfl, l, st, hat, ?_⟩
    revert hl
    simp only [reserveWriters]
    grind
  | free m hi hat h hf =>
    refine ⟨fun r' hne => absurd (h.1 r') hne, fun r' sd' hne => .inr ?_, .inr ⟨hi, hat, m, hf⟩⟩
    obtain ⟨rfl, rfl⟩ := h.eq_of_ne hne
    exact ⟨hi, rfl, rfl, .x2, [], hat, by decide⟩

end Sys2Proof.Machine
end

section
/-! PROOFS. What the copies of a `RINGOP` move (spec/40 rule R130): the storage that `COPYW` leaves, byte by byte, and the
elements that `COPYR` reads. -/

namespace Sys2Proof.Machine

/-! ### `COPYW` -/

/-- Storage `m` after the first `k` elements of `pl` have been copied into the slots from position `oh` on. -/
def copiedMem (cfg : Params) (r : RingId) (oh : U32) (pl : Payload) (m : Memory) : Nat → Memory
  | 0 => m
  | k + 1 =>
    (copiedMem cfg r oh pl m k).writeBytes (addrOf cfg r (oh + BitVec.ofNat 32 k)) (pl.elem (esize cfg r) k)

/-- The copy of an enqueue writes `copiedMem` and nothing else. -/
theorem copyIn_eq {s : State} {r : RingId} (h : cap s.cfg r ≠ 0#32) (k : Nat) :
    s.copyIn r k =
      .ok (s.setRing r { s.ring r with mem := copiedMem s.cfg r s.lat.oh s.lat.src (s.ring r).mem k }) := by
  induction k with
  | zero => cases r <;> rfl
  | succ k ih =>
    simp only [State.copyIn, ih, State.memWrite, State.setRing_cfg, payload_elem_length,
      if_pos (addrOf_within s.cfg r _ h), State.setRing_ring]
    cases r <;> rfl

theorem copiedMem_wf {cfg : Params} {r : RingId} {oh : U32} {pl : Payload} {m : Memory} (h : m.wf = true) :
    ∀ k, (copiedMem cfg r oh pl m k).wf = true
  | 0 => h
  | k + 1 => Memory.writeBytes_wf _ _ _ (copiedMem_wf h k)

/-- Byte `b` of an element. -/
theorem payload_elem_getElem? (pl : Payload) (j : Nat) {e b : Nat} (h : b < e) :
    (pl.elem e j)[b]? = some (pl.byte (j * e + b)) := by
  simp [Payload.elem, h]

/-- A byte in none of the slots is left as it was. -/
theorem copiedMem_read_outside {cfg : Params} {r : RingId} {oh : U32} {pl : Payload} {m : Memory} (hm : m.wf = true)
    {a : Nat} : ∀ {k : Nat}, (∀ j, j < k → ¬(addrOf cfg r (oh + BitVec.ofNat 32 j) ≤ a ∧
      a < addrOf cfg r (oh + BitVec.ofNat 32 j) + esize cfg r)) → (copiedMem cfg r oh pl m k).read a = m.read a
  | 0, _ => rfl
  | k + 1, h => by
    rw [copiedMem, Memory.read_writeBytes _ _ _ _ (copiedMem_wf hm k), payload_elem_length, if_neg (h k k.lt_succ_self)]
    exact copiedMem_read_outside hm fun j hj => h j (Nat.lt_succ_of_lt hj)

/-- Fewer positions than the capacity have different slots (spec/20 rule R61). -/
theorem slot_inj {c oh : U32} (hc : ispow2 c = true) {i j : Nat} (hi : i < c.toNat) (hj : j < c.toNat)
    (h : (oh + BitVec.ofNat 32 i).toNat % c.toNat = (oh + BitVec.ofNat 32 j).toNat % c.toNat) : i = j := by
  obtain ⟨e, he, hce⟩ := (ispow2_iff c).mp hc
  have hdvd : c.toNat ∣ 2 ^ 32 := hce ▸ Nat.pow_dvd_pow 2 (by omega)
  have hpos : ∀ n, n < c.toNat → (oh + BitVec.ofNat 32 n).toNat % c.toNat = (oh.toNat + n) % c.toNat := fun n hn => by
    rw [BitVec.toNat_add, BitVec.toNat_ofNat, Nat.mod_eq_of_lt (hn.trans c.isLt), Nat.mod_mod_of_dvd _ hdvd]
  rw [hpos i hi, hpos j hj] at h
  have hmod : i ≡ j [MOD c.toNat] := Nat.ModEq.add_left_cancel' oh.toNat h
  exact hmod.eq_of_lt_of_lt hi hj

/-- A byte of one slot lies in no other slot. -/
theorem slot_of_byte {x y e b : Nat} (hb : b < e) (h : y * e ≤ x * e + b ∧ x * e + b < y * e + e) : x = y := by
  have he : 0 < e := by omega
  rw [← Nat.succ_mul] at h
  have hx : (x * e + b) / e = x := by rw [Nat.mul_comm, Nat.mul_add_div he, Nat.div_eq_of_lt hb, Nat.add_zero]
  have hlow : y ≤ x := hx ▸ (Nat.le_div_iff_mul_le he).mpr h.1
  have hhigh : x < y + 1 := hx ▸ (Nat.div_lt_iff_lt_mul he).mpr h.2
  omega

/-- Each slot holds its element. -/
theorem copiedMem_read_slot {cfg : Params} {r : RingId} {oh : U32} {pl : Payload} {m : Memory} (hm : m.wf = true)
    (hc : ispow2 (cap cfg r) = true) {j b : Nat} (hb : b < esize cfg r) : ∀ {k : Nat}, k ≤ (cap cfg r).toNat → j < k →
      (copiedMem cfg r oh pl m k).read (addrOf cfg r (oh + BitVec.ofNat 32 j) + b) =
        some (pl.byte (j * esize cfg r + b))
  | 0, _, hj => absurd hj (Nat.not_lt_zero j)
  | k + 1, hk, hj => by
    rw [copiedMem, Memory.read_writeBytes _ _ _ _ (copiedMem_wf hm k), payload_elem_length]
    by_cases hlast : j = k
    · subst hlast
      rw [if_pos ⟨Nat.le_add_right _ _, Nat.add_lt_add_left hb _⟩, Nat.add_sub_cancel_left, payload_elem_getElem? pl j hb]
    · rw [if_neg, copiedMem_read_slot hm hc hb (Nat.le_of_succ_le hk) (by omega)]
      rw [addrOf_eq _ hc, addrOf_eq _ hc]
      exact fun h => hlast (slot_inj hc (hj.trans_le hk) hk (slot_of_byte hb h))

/-! ### `COPYR` -/

/-- The copy of a dequeue gives the elements of its slots in order. -/
theorem copyOut_eq {s : State} {r : RingId} (h : cap s.cfg r ≠ 0#32) {es : List Element}
    (hes : ∀ j, j < es.length → (s.ring r).mem.readBytes (addrOf s.cfg r (s.lat.oh + BitVec.ofNat 32 j)) (esize s.cfg r) =
      es[j]?) : ∀ {k : Nat}, k ≤ es.length → s.copyOut r k = .ok (es.take k)
  | 0, _ => rfl
  | k + 1, hk => by
    have hread := hes k hk
    rw [List.getElem?_eq_getElem hk] at hread
    simp only [State.copyOut, copyOut_eq h hes (Nat.le_of_succ_le hk), State.memRead,
      if_pos (addrOf_within s.cfg r _ h), hread, List.take_succ_eq_append_getElem hk]

end Sys2Proof.Machine
end

section
/-! PROOFS. A `RINGOP` on ring 0 that runs alone (spec/40 rules R138, R139): its port is the only one granted, so every
state on the way is the first one with that port, one side of the ring and the storage replaced (`State.solo`). -/

namespace Sys2Proof.Machine

/-! ### The states of a port that runs alone -/

/-- `s` with `j` grants of port `p` to come, in which `p` is `q`, side `sd` of ring 0 holds `w` and its storage is `m`. -/
def State.solo (s : State) (p : Nat) (sd : Side) (q : Port) (w : SideRegs) (m : Memory) (j : Nat) : State :=
  { s with
    cur := p
    sched := List.replicate j (.grant p)
    ports := s.ports.set p q
    fifo := { s.fifo.setSide sd w with mem := m } }

/-- The port `q` at a labelled line with the latches `x`. -/
def Port.busyAt (q : Port) (l : Label) (st : List Seq) (x : Latches) : Port := { q with phase := .busy l st, lat := x }

/-- The response of a ring command whose `RINGOP` has ended with the latches `x` (spec/41 rules R170 to R173). -/
def ringAnswer (sd : Side) (x : Latches) : Response :=
  { word := responseWord .ok x.k 0#64
    payload := match sd with
      | .prod => []
      | .cons => x.dst.take x.k.toNat }

/-- The port `q` after the answer. -/
def Port.answered (q : Port) (sd : Side) (x : Latches) : Port :=
  { q with phase := .idle, lat := x, rspch := q.rspch ++ [ringAnswer sd x] }

section
variable {s : State} {p : Nat} {sd : Side} {q : Port} {w : SideRegs} {m : Memory} {j : Nat}

@[simp] theorem solo_cfg : (s.solo p sd q w m j).cfg = s.cfg := rfl

@[simp] theorem solo_cur : (s.solo p sd q w m j).cur = p := rfl

theorem solo_granted (hp : p < s.ports.length) : (s.solo p sd q w m j).granted := by
  simpa [State.granted, State.solo] using hp

theorem solo_port (hp : p < s.ports.length) : (s.solo p sd q w m j).port = q := by
  simp [State.port, State.solo, List.getD_eq_getElem?_getD, hp]

theorem solo_lat (hp : p < s.ports.length) : (s.solo p sd q w m j).lat = q.lat := by
  rw [State.lat, solo_port hp]

@[simp] theorem solo_side : (s.solo p sd q w m j).side .fifo sd = w := by
  cases sd <;> rfl

@[simp] theorem solo_side_opp : (s.solo p sd q w m j).side .fifo sd.opp = s.side .fifo sd.opp := by
  cases sd <;> rfl

@[simp] theorem solo_mem : ((s.solo p sd q w m j).ring .fifo).mem = m := rfl

@[simp] theorem solo_headw : (s.solo p sd q w m j).headw .fifo sd = loOf w.a := by
  rw [State.headw, solo_side]

@[simp] theorem solo_tailview_opp : (s.solo p sd q w m j).tailview .fifo sd.opp = s.tailview .fifo sd.opp := by
  simp only [State.tailview, solo_side_opp, solo_cfg]

theorem solo_updPort (f : Port → Port) : (s.solo p sd q w m j).updPort f = s.solo p sd (f q) w m j := by
  have hset : (s.ports.set p q).modify p f = s.ports.set p (f q) := by
    apply List.ext_getElem?
    intro n
    by_cases hn : p = n
    · subst hn
      simp [List.getElem?_set]
    · simp [hn]
  simp only [State.solo, State.updPort, State.updPortAt, hset]

@[simp] theorem solo_busyAt_lat {l : Label} {st : List Seq} {x : Latches} (hp : p < s.ports.length) :
    (s.solo p sd (q.busyAt l st x) w m j).lat = x := solo_lat hp

@[simp] theorem solo_busyAt_updLat {l : Label} {st : List Seq} {x : Latches} (f : Latches → Latches) :
    (s.solo p sd (q.busyAt l st x) w m j).updLat f = s.solo p sd (q.busyAt l st (f x)) w m j := solo_updPort _

@[simp] theorem solo_setSide (w' : SideRegs) : (s.solo p sd q w m j).setSide .fifo sd w' = s.solo p sd q w' m j := by
  cases sd <;> rfl

theorem solo_setMem (m' : Memory) :
    (s.solo p sd q w m j).setRing .fifo { (s.solo p sd q w m j).ring .fifo with mem := m' } = s.solo p sd q w m' j := rfl

/-! ### One step of the port -/

/-- `n` grants of port `p` alone. -/
def State.runSolo (s : State) (p : Nat) (sd : Side) (n : Nat) (q : Port) (w : SideRegs) (m : Memory) :
    Host.Outcome State Fault Refusal := Sys2Proof.core.run n (s.solo p sd q w m n)

/-- A run goes on from the state after its first step. -/
theorem run_succ {s t : State} {n : Nat} (h : step s = .next t) :
    Sys2Proof.core.run (n + 1) s = Sys2Proof.core.run n t := by
  have hcore : Sys2Proof.core.step s = .next t := h
  simp only [Host.Core.run, hcore]

theorem runSolo_zero : s.runSolo p sd 0 q w m = .next (s.solo p sd q w m 0) := rfl

variable {i : Instr} {l : Label} {st : List Seq} {x : Latches} {n : Nat}

/-- A grant to the port at a line of the `RINGOP` of its command. -/
theorem step_solo (hp : p < s.ports.length) (hi : ringopUse i = some (.fifo, sd)) (hx : decodeWord x.cmd = .ok i) :
    step (s.solo p sd (q.busyAt l (.ringop :: st) x) w m (n + 1)) =
      ((ringopLine .fifo sd l st (s.solo p sd (q.busyAt l (.ringop :: st) x) w m n)).within .ringop
        (afterRingopOf i)).outcome := by
  have hline : (s.solo p sd (q.busyAt l (.ringop :: st) x) w m n).atLine l (.ringop :: st) :=
    ⟨solo_granted hp, by rw [State.phase, solo_port hp]; rfl⟩
  rw [step_sched (e := .grant p) (es := List.replicate n (.grant p)) rfl, ← exec_ringop_line hi hline]
  have hq : (s.ports.set p (q.busyAt l (.ringop :: st) x))[p]? = some (q.busyAt l (.ringop :: st) x) := by simp [hp]
  simp only [stepEvent, State.solo, hq]
  exact grantTo_busy rfl (Port.command_eq hx)

/-- A line that goes on. -/
theorem runSolo_goto {l' : Label} {st' : List Seq} {x' : Latches} {w' : SideRegs} {m' : Memory}
    (hp : p < s.ports.length) (hi : ringopUse i = some (.fifo, sd)) (hx : decodeWord x.cmd = .ok i)
    (h : ∀ n, ringopLine .fifo sd l st (s.solo p sd (q.busyAt l (.ringop :: st) x) w m n) =
      .goto l' st' (s.solo p sd (q.busyAt l (.ringop :: st) x') w' m' n)) :
    s.runSolo p sd (n + 1) (q.busyAt l (.ringop :: st) x) w m =
      s.runSolo p sd n (q.busyAt l' (.ringop :: st') x') w' m' := by
  refine run_succ ?_
  rw [step_solo hp hi hx, h n, Flow.within_goto, Flow.outcome_goto, State.setPhase, solo_updPort]
  rfl

/-- The answer of a ring command. -/
theorem afterRingopOf_solo (hp : p < s.ports.length) (hi : ringopUse i = some (.fifo, sd)) :
    afterRingopOf i (s.solo p sd (q.busyAt l st x) w m n) = .ended (s.solo p sd (q.answered sd x) w m n) := by
  unfold afterRingopOf
  rw [hi]
  cases sd <;> simp only [enqDone, deqDone, State.respond, State.respondWith, solo_lat hp, solo_updPort] <;> rfl

/-- A line that ends the `RINGOP`, and with it the command. -/
theorem runSolo_ret {x' : Latches} {w' : SideRegs} {m' : Memory}
    (hp : p < s.ports.length) (hi : ringopUse i = some (.fifo, sd)) (hx : decodeWord x.cmd = .ok i)
    (h : ∀ n, ringopLine .fifo sd l st (s.solo p sd (q.busyAt l (.ringop :: st) x) w m n) =
      .ret (s.solo p sd (q.busyAt l (.ringop :: st) x') w' m' n)) :
    s.runSolo p sd (n + 1) (q.busyAt l (.ringop :: st) x) w m = s.runSolo p sd n (q.answered sd x') w' m' := by
  refine run_succ ?_
  rw [step_solo hp hi hx, h n, Flow.within_ret, afterRingopOf_solo hp hi, Flow.outcome_ended]

/-! ### `RESERVE` -/

/-- The lines of `RESERVE` before the one that computes `L.K`. -/
def loadSteps : Sync → Nat
  | .st => 1
  | .mt => 1
  | .hts => 1
  | .rts => 2

/-- The line that computes `L.K` (spec/40 rules R125 to R128). -/
def availLabel : Sync → Label
  | .st => .s2
  | .mt => .m2
  | .hts => .h2
  | .rts => .t3

/-- The line that takes the positions. -/
def takeLabel : Sync → Label
  | .st => .s3
  | .mt => .m3
  | .hts => .h3
  | .rts => .t4

/-- The latches after the head has been loaded. -/
def Latches.loaded (x : Latches) (d : Sync) (h c : U32) : Latches :=
  match d with
  | .st => { x with oh := h }
  | .mt => { x with oh := h }
  | .hts => { x with oh := h }
  | .rts => { x with oh := h, oc := c }

/-- The side after the head has been loaded: under `ST` port `p` owns it. -/
def loadedSide (p : Nat) (d : Sync) (h c : U32) : SideRegs :=
  match d with
  | .st => { idleSide .st h c with sown := { valid := true, owner := p } }
  | .mt => idleSide .mt h c
  | .hts => idleSide .hts h c
  | .rts => idleSide .rts h c

/-- The side while `k` positions from `h` on are reserved. -/
def takenSide (p : Nat) (d : Sync) (h c k : U32) : SideRegs :=
  match d with
  | .st => { a := pack (h + k) 0#32, b := pack h 0#32, sown := { valid := true, owner := p } }
  | .mt => { a := pack (h + k) 0#32, b := pack h 0#32, sown := Owner.free }
  | .hts => { a := pack (h + k) h, b := 0#64, sown := Owner.free }
  | .rts => { a := pack (h + k) (c + 1#32), b := pack h c, sown := Owner.free }

@[simp] theorem loaded_cmd (d : Sync) (h c : U32) : (x.loaded d h c).cmd = x.cmd := by cases d <;> rfl
@[simp] theorem loaded_src (d : Sync) (h c : U32) : (x.loaded d h c).src = x.src := by cases d <;> rfl
@[simp] theorem loaded_n (d : Sync) (h c : U32) : (x.loaded d h c).n = x.n := by cases d <;> rfl
@[simp] theorem loaded_beh (d : Sync) (h c : U32) : (x.loaded d h c).beh = x.beh := by cases d <;> rfl
@[simp] theorem loaded_oh (d : Sync) (h c : U32) : (x.loaded d h c).oh = h := by cases d <;> rfl

/-- The lines before the one that computes `L.K`. -/
theorem runSolo_load {d : Sync} {h c : U32} (hp : p < s.ports.length) (hi : ringopUse i = some (.fifo, sd))
    (hx : decodeWord x.cmd = .ok i) (hd : syncOf s.cfg .fifo sd = d) :
    s.runSolo p sd (n + loadSteps d) (q.busyAt (reserveFirst d) [.ringop, .reserve] x) (idleSide d h c) m =
      s.runSolo p sd n (q.busyAt (availLabel d) [.ringop, .reserve] (x.loaded d h c)) (loadedSide p d h c) m := by
  cases d with
  | st =>
    refine runSolo_goto (l := .s1) hp hi hx fun n => ?_
    simp [ringopLine, reserveLine, reserveOwn, State.setSown, idleSide, Owner.free, Latches.loaded, loadedSide, availLabel]
  | mt =>
    refine runSolo_goto (l := .m1) hp hi hx fun n => ?_
    simp [ringopLine, reserveLine, idleSide, Latches.loaded, loadedSide, availLabel]
  | hts =>
    refine runSolo_goto (l := .h1) hp hi hx fun n => ?_
    simp [ringopLine, reserveLine, reserveLoadHts, idleSide, Latches.loaded, loadedSide, availLabel]
  | rts =>
    have hload : s.runSolo p sd (n + 2) (q.busyAt .t1 [.ringop, .reserve] x) (idleSide .rts h c) m =
        s.runSolo p sd (n + 1) (q.busyAt .t2 [.ringop, .reserve] (x.loaded .rts h c)) (idleSide .rts h c) m := by
      refine runSolo_goto hp hi hx fun n => ?_
      simp [ringopLine, reserveLine, reserveLoadRts, idleSide, Latches.loaded]
    refine hload.trans (runSolo_goto hp hi (by simpa using hx) fun n => ?_)
    simp [ringopLine, reserveLine, reserveWaitRts, hp, State.tailview, hd, loadedSide, idleSide, availLabel]

/-- The latches after `L.K` has been computed. -/
def Latches.found (x : Latches) (opt k : U32) : Latches := { x with opt := opt, k := k }

/-- What a reservation of `sz` positions from `h` on finds on side `sd` of ring 0 (spec/40 rules R121, R122). -/
def State.foundK (s : State) (sd : Side) (h sz : U32) (beh : Beh) : U32 :=
  clamp (avail s.cfg .fifo sd h (s.tailview .fifo sd.opp)) sz beh

/-- The line that computes `L.K` loads the opposing tail. -/
theorem solo_loadAvail :
    (s.solo p sd (q.busyAt l st x) w m n).loadAvail .fifo sd =
      s.solo p sd (q.busyAt l st (x.found (s.tailview .fifo sd.opp) (s.foundK sd x.oh x.n x.beh))) w m n := by
  simp [State.loadAvail, Latches.found, State.foundK]

/-- The line that computes `L.K`, with something to reserve. -/
theorem runSolo_avail {d : Sync} (hp : p < s.ports.length) (hi : ringopUse i = some (.fifo, sd))
    (hx : decodeWord x.cmd = .ok i) (hk : s.foundK sd x.oh x.n x.beh ≠ 0#32) :
    s.runSolo p sd (n + 1) (q.busyAt (availLabel d) [.ringop, .reserve] x) w m =
      s.runSolo p sd n (q.busyAt (takeLabel d) [.ringop, .reserve]
        (x.found (s.tailview .fifo sd.opp) (s.foundK sd x.oh x.n x.beh))) w m := by
  refine runSolo_goto hp hi hx fun n => ?_
  cases d <;>
    simp [availLabel, takeLabel, ringopLine, reserveLine, reserveAvail, reserveAvailSt, solo_loadAvail, hp,
      Latches.found, hk]

/-- The line that computes `L.K`, with nothing to reserve: the command answers, and under `ST` gives the side back. -/
theorem runSolo_avail_none {d : Sync} {h c : U32} (hp : p < s.ports.length) (hi : ringopUse i = some (.fifo, sd))
    (hx : decodeWord x.cmd = .ok i) (hk : s.foundK sd x.oh x.n x.beh = 0#32) :
    s.runSolo p sd (n + 1) (q.busyAt (availLabel d) [.ringop, .reserve] x) (loadedSide p d h c) m =
      s.runSolo p sd n (q.answered sd (x.found (s.tailview .fifo sd.opp) 0#32)) (idleSide d h c) m := by
  refine runSolo_ret hp hi hx fun n => ?_
  cases d <;>
    simp [availLabel, ringopLine, reserveLine, reserveAvail, reserveAvailSt, solo_loadAvail, hp,
      Latches.found, hk, ringopReserved, loadedSide, idleSide, State.setSown, Owner.free]

/-- The line that takes the positions: the head has not moved since it was loaded, so no compare-and-swap is lost. -/
theorem runSolo_take {d : Sync} {h c : U32} (hp : p < s.ports.length) (hi : ringopUse i = some (.fifo, sd))
    (hx : decodeWord x.cmd = .ok i) (hoh : x.oh = h) (hoc : d = .rts → x.oc = c) (hk : x.k ≠ 0#32) :
    s.runSolo p sd (n + 1) (q.busyAt (takeLabel d) [.ringop, .reserve] x) (loadedSide p d h c) m =
      s.runSolo p sd n (q.busyAt .cp [.ringop, .copy] x) (takenSide p d h c x.k) m := by
  refine runSolo_goto hp hi hx fun n => ?_
  subst hoh
  cases d <;>
    simp [takeLabel, ringopLine, reserveLine, reserveCasMt, reserveCasHts, reserveCasRts, loadedSide, takenSide, idleSide,
      State.storeHead, State.setA, hp, storeLo, ringopReserved, hk, hoc]

/-! ### `COPY` -/

/-- The copy of an enqueue. -/
theorem runSolo_copyIn (hp : p < s.ports.length) (hi : ringopUse i = some (.fifo, .prod)) (hx : decodeWord x.cmd = .ok i)
    (hc : s.cfg.c0 ≠ 0#32) :
    s.runSolo p .prod (n + 1) (q.busyAt .cp [.ringop, .copy] x) w m =
      s.runSolo p .prod n (q.busyAt (publishFirst s.cfg.psync0) [.ringop, .publish] x) w
        (copiedMem s.cfg .fifo x.oh x.src m x.k.toNat) := by
  refine runSolo_goto hp hi hx fun n => ?_
  have hcopy := copyIn_eq (s := s.solo p .prod (q.busyAt .cp [.ringop, .copy] x) w m n) (r := .fifo) hc x.k.toNat
  rw [solo_busyAt_lat hp, solo_setMem] at hcopy
  simp only [ringopLine, copyLine, solo_busyAt_lat hp, hcopy]
  rfl

/-- The latches after the copy of a dequeue. -/
def Latches.fetched (x : Latches) (es : List Element) : Latches := { x with dst := es }

/-- The copy of a dequeue. -/
theorem runSolo_copyOut {es : List Element} (hp : p < s.ports.length) (hi : ringopUse i = some (.fifo, .cons))
    (hx : decodeWord x.cmd = .ok i) (hc : s.cfg.c0 ≠ 0#32) (hk : es.length = x.k.toNat)
    (hes : ∀ j, j < es.length →
      m.readBytes (addrOf s.cfg .fifo (x.oh + BitVec.ofNat 32 j)) (esize s.cfg .fifo) = es[j]?) :
    s.runSolo p .cons (n + 1) (q.busyAt .cp [.ringop, .copy] x) w m =
      s.runSolo p .cons n (q.busyAt (publishFirst s.cfg.csync0) [.ringop, .publish] (x.fetched es)) w m := by
  refine runSolo_goto hp hi hx fun n => ?_
  have hcopy : (s.solo p .cons (q.busyAt .cp [.ringop, .copy] x) w m n).copyOut .fifo x.k.toNat = .ok es := by
    have hread := copyOut_eq (s := s.solo p .cons (q.busyAt .cp [.ringop, .copy] x) w m n) (r := .fifo) (es := es) hc
      (by rw [solo_busyAt_lat hp]; exact hes) le_rfl
    rwa [List.take_length, hk] at hread
  simp only [ringopLine, copyLine, solo_busyAt_lat hp, hcopy, Flow.ofExcept_ok, solo_busyAt_updLat]
  rfl

/-! ### `PUBLISH` -/

/-- The lines of `PUBLISH`. -/
def publishSteps : Sync → Nat
  | .st => 1
  | .mt => 2
  | .hts => 1
  | .rts => 3

/-- The latches after `PUBLISH` of `k` positions from `h` on: under `RTS` it has loaded both words. -/
def Latches.published (x : Latches) (d : Sync) (h c k : U32) : Latches :=
  match d with
  | .st => x
  | .mt => x
  | .hts => x
  | .rts => { x with otw := pack h c, hw := pack (h + k) (c + 1#32) }

@[simp] theorem published_k (d : Sync) (h c k : U32) : (x.published d h c k).k = x.k := by cases d <;> rfl
@[simp] theorem published_dst (d : Sync) (h c k : U32) : (x.published d h c k).dst = x.dst := by cases d <;> rfl

/-- `PUBLISH` of the one reservation that is open. -/
theorem runSolo_publish {d : Sync} {h c : U32} (hp : p < s.ports.length) (hi : ringopUse i = some (.fifo, sd))
    (hx : decodeWord x.cmd = .ok i) (hd : syncOf s.cfg .fifo sd = d) (hoh : x.oh = h) :
    s.runSolo p sd (n + publishSteps d) (q.busyAt (publishFirst d) [.ringop, .publish] x) (takenSide p d h c x.k) m =
      s.runSolo p sd n (q.answered sd (x.published d h c x.k)) (idleSide d (h + x.k) (c + 1#32)) m := by
  subst hoh
  cases d with
  | st =>
    refine runSolo_ret (l := .s4) hp hi hx fun n => ?_
    simp [ringopLine, publishLine, publishSt, hp, State.storeTail, hd, State.setB, State.setSown, takenSide, idleSide,
      storeLo, Latches.published]
  | mt =>
    have hturn : s.runSolo p sd (n + 2) (q.busyAt .m4 [.ringop, .publish] x) (takenSide p .mt x.oh c x.k) m =
        s.runSolo p sd (n + 1) (q.busyAt .m5 [.ringop, .publish] x) (takenSide p .mt x.oh c x.k) m := by
      refine runSolo_goto hp hi hx fun n => ?_
      simp [ringopLine, publishLine, publishTurn, hp, State.tailview, hd, takenSide]
    refine hturn.trans (runSolo_ret hp hi hx fun n => ?_)
    simp [ringopLine, publishLine, hp, State.storeTail, hd, State.setB, takenSide, idleSide, storeLo, Latches.published]
  | hts =>
    refine runSolo_ret (l := .h4) hp hi hx fun n => ?_
    simp [ringopLine, publishLine, publishHts, hp, State.setA, takenSide, idleSide, Latches.published]
  | rts =>
    have htail : s.runSolo p sd (n + 3) (q.busyAt .t5 [.ringop, .publish] x) (takenSide p .rts x.oh c x.k) m =
        s.runSolo p sd (n + 2) (q.busyAt .t6 [.ringop, .publish] { x with otw := pack x.oh c })
          (takenSide p .rts x.oh c x.k) m := by
      refine runSolo_goto hp hi hx fun n => ?_
      simp [ringopLine, publishLine, takenSide]
    have hhead : s.runSolo p sd (n + 2) (q.busyAt .t6 [.ringop, .publish] { x with otw := pack x.oh c })
          (takenSide p .rts x.oh c x.k) m =
        s.runSolo p sd (n + 1) (q.busyAt .t7 [.ringop, .publish] (x.published .rts x.oh c x.k))
          (takenSide p .rts x.oh c x.k) m := by
      refine runSolo_goto hp hi hx fun n => ?_
      simp [ringopLine, publishLine, takenSide, Latches.published]
    refine (htail.trans hhead).trans (runSolo_ret hp hi hx fun n => ?_)
    simp [ringopLine, publishLine, publishCasRts, hp, State.setB, takenSide, idleSide, rtsNext, Latches.published]

/-! ### Acceptance -/

/-- Port `p` as it is, granted. -/
theorem solo_self (hq : s.ports[p]? = some q) :
    { s with cur := p, sched := List.replicate n (.grant p) } = s.solo p sd q (s.side .fifo sd) s.fifo.mem n := by
  obtain ⟨hp, rfl⟩ := List.getElem?_eq_some_iff.mp hq
  rw [State.solo, List.set_getElem_self hp]
  cases sd <;> rfl

/-- The latches of a ring command at its first line. -/
def acceptedLat (msg : Message) (sz : U32) (beh : Beh) : Latches :=
  { Latches.reset with cmd := msg.word, src := msg.payload, n := sz, beh := beh }

/-- The first line of a ring command and the latches it enters with. -/
theorem enterOf_ringRequest {sz : U32} {beh : Beh} (hi : ringRequest i = some (sd, sz, beh)) (u : State) :
    enterOf i u = .goto (reserveFirst (syncOf u.cfg .fifo sd)) [.ringop, .reserve]
      (u.updLat fun l => { l with n := sz, beh := beh }) := by
  cases i <;> cases hi <;> rfl

theorem unitOf_ringRequest {sz : U32} {beh : Beh} (hi : ringRequest i = some (sd, sz, beh)) (u : State) :
    u.unitOk (unitOf i) = u.r0Ok ∧ operandErrorOf u i = false := by
  cases i <;> cases hi <;> exact ⟨rfl, rfl⟩

/-- The acceptance step of a ring command asked for some elements (spec/30 rule R92). -/
theorem runSolo_accept {msg : Message} {rest : List Message} {sz : U32} {beh : Beh}
    (hi : ringRequest i = some (sd, sz, beh)) (hsz : sz ≠ 0#32) (hmsg : decodeMessage s.cfg msg = .ok i)
    (hq : s.ports[p]? = some q) (hphase : q.phase = .idle) (hch : q.cmdch = msg :: rest) (hok : s.r0Ok = true) :
    runAlone p (1 + n) s =
      s.runSolo p sd n (({ q with cmdch := rest } : Port).busyAt (reserveFirst (syncOf s.cfg .fifo sd))
        [.ringop, .reserve] (acceptedLat msg sz beh)) (s.side .fifo sd) s.fifo.mem := by
  have hp : p < s.ports.length := (List.getElem?_eq_some_iff.mp hq).1
  rw [Nat.add_comm, runAlone]
  refine run_succ ?_
  rw [step_sched (e := .grant p) (es := List.replicate n (.grant p)) rfl]
  have hgrant : grantTo p q { s with sched := List.replicate n (.grant p) } =
      exec i (s.solo p sd q (s.side .fifo sd) s.fifo.mem n) := by
    rw [← solo_self hq]
    exact grantTo_idle hphase hch hmsg
  obtain ⟨hunit, hop⟩ := unitOf_ringRequest hi (s.solo p sd q (s.side .fifo sd) s.fifo.mem n)
  have hr0 : (s.solo p sd q (s.side .fifo sd) s.fifo.mem n).r0Ok = true := hok
  have hzero : zeroCountOf i = false := by simp [zeroCountOf, hi, hsz]
  simp only [stepEvent, State.grants, hq, hgrant]
  rw [exec_idle (solo_granted hp) (by rw [State.phase, solo_port hp, hphase]),
    accept_waiting (by rw [solo_port hp, hch]), hunit, hop, hzero, hr0, enterOf_ringRequest hi]
  simp [State.popCmd, State.latch, State.updLat, State.setPhase, solo_updPort, hch, acceptedLat, Port.busyAt]

/-! ### The whole `RINGOP` -/

/-- The latches of a port that has reserved `k` positions from `h` on. -/
def Latches.reserved (x : Latches) (d : Sync) (h c opt k : U32) : Latches := (x.loaded d h c).found opt k

@[simp] theorem reserved_cmd (d : Sync) (h c opt k : U32) : (x.reserved d h c opt k).cmd = x.cmd := loaded_cmd d h c
@[simp] theorem reserved_src (d : Sync) (h c opt k : U32) : (x.reserved d h c opt k).src = x.src := loaded_src d h c
@[simp] theorem reserved_oh (d : Sync) (h c opt k : U32) : (x.reserved d h c opt k).oh = h := loaded_oh d h c
@[simp] theorem reserved_k (d : Sync) (h c opt k : U32) : (x.reserved d h c opt k).k = k := rfl

/-- `RESERVE` alone, with something to reserve. -/
theorem runSolo_reserve {d : Sync} {h c k : U32} (hp : p < s.ports.length) (hi : ringopUse i = some (.fifo, sd))
    (hx : decodeWord x.cmd = .ok i) (hd : syncOf s.cfg .fifo sd = d) (hk : s.foundK sd h x.n x.beh = k) (hk0 : k ≠ 0#32) :
    s.runSolo p sd (n + 1 + 1 + loadSteps d) (q.busyAt (reserveFirst d) [.ringop, .reserve] x) (idleSide d h c) m =
      s.runSolo p sd n (q.busyAt .cp [.ringop, .copy] (x.reserved d h c (s.tailview .fifo sd.opp) k))
        (takenSide p d h c k) m := by
  have hfound : s.foundK sd (x.loaded d h c).oh (x.loaded d h c).n (x.loaded d h c).beh = k := by simpa using hk
  rw [runSolo_load hp hi hx hd, runSolo_avail hp hi (by simpa using hx) (hfound ▸ hk0), hfound]
  have hres : decodeWord (x.reserved d h c (s.tailview .fifo sd.opp) k).cmd = .ok i := by rwa [reserved_cmd]
  exact runSolo_take hp hi hres (reserved_oh d h c _ k) (by rintro rfl; rfl) hk0

/-- A `RINGOP` alone that finds nothing. -/
theorem runSolo_nothing {d : Sync} {h c : U32} (hp : p < s.ports.length) (hi : ringopUse i = some (.fifo, sd))
    (hx : decodeWord x.cmd = .ok i) (hd : syncOf s.cfg .fifo sd = d) (hk : s.foundK sd h x.n x.beh = 0#32) :
    s.runSolo p sd (emptySteps d) (q.busyAt (reserveFirst d) [.ringop, .reserve] x) (idleSide d h c) m =
      .next (s.solo p sd (q.answered sd (x.reserved d h c (s.tailview .fifo sd.opp) 0#32)) (idleSide d h c) m 0) := by
  have hsteps : emptySteps d = 0 + 1 + loadSteps d := by cases d <;> rfl
  rw [hsteps, runSolo_load hp hi hx hd, runSolo_avail_none hp hi (by simpa using hx) (by simpa using hk), runSolo_zero]
  rfl

/-- A `RINGOP` alone that reserves `k` positions, whose copy leaves the latches `y` and the storage `m'`. -/
theorem runSolo_ringop {d : Sync} {h c k : U32} {y : Latches} {m' : Memory} (hp : p < s.ports.length)
    (hi : ringopUse i = some (.fifo, sd)) (hx : decodeWord x.cmd = .ok i) (hd : syncOf s.cfg .fifo sd = d)
    (hk : s.foundK sd h x.n x.beh = k) (hk0 : k ≠ 0#32) (hcmd : y.cmd = x.cmd) (hoh : y.oh = h) (hyk : y.k = k)
    (hcopy : ∀ n, s.runSolo p sd (n + 1) (q.busyAt .cp [.ringop, .copy] (x.reserved d h c (s.tailview .fifo sd.opp) k))
        (takenSide p d h c k) m =
      s.runSolo p sd n (q.busyAt (publishFirst d) [.ringop, .publish] y) (takenSide p d h c k) m') :
    s.runSolo p sd (ringopSteps d) (q.busyAt (reserveFirst d) [.ringop, .reserve] x) (idleSide d h c) m =
      .next (s.solo p sd (q.answered sd (y.published d h c k)) (idleSide d (h + k) (c + 1#32)) m' 0) := by
  have hsteps : ringopSteps d = 0 + publishSteps d + 1 + 1 + 1 + loadSteps d := by cases d <;> rfl
  have hy : decodeWord y.cmd = .ok i := by rwa [hcmd]
  subst hyk
  rw [hsteps, runSolo_reserve hp hi hx hd hk hk0, hcopy, runSolo_publish hp hi hy hd hoh, runSolo_zero]

/-- An enqueue alone that reserves `k` positions. -/
theorem runSolo_enqueue {d : Sync} {h c k : U32} (hp : p < s.ports.length) (hi : ringopUse i = some (.fifo, .prod))
    (hx : decodeWord x.cmd = .ok i) (hd : s.cfg.psync0 = d) (hc : s.cfg.c0 ≠ 0#32) (hk : s.foundK .prod h x.n x.beh = k)
    (hk0 : k ≠ 0#32) :
    ∃ x' : Latches, x'.k = k ∧
      s.runSolo p .prod (ringopSteps d) (q.busyAt (reserveFirst d) [.ringop, .reserve] x) (idleSide d h c) m =
        .next (s.solo p .prod (q.answered .prod x') (idleSide d (h + k) (c + 1#32))
          (copiedMem s.cfg .fifo h x.src m k.toNat) 0) := by
  refine ⟨_, ?_, runSolo_ringop hp hi hx hd hk hk0 (reserved_cmd d h c (s.tailview .fifo .cons) k) (reserved_oh d h c _ k)
    (reserved_k d h c _ k) fun n => ?_⟩
  · rw [published_k, reserved_k]
  · have hx' : decodeWord (x.reserved d h c (s.tailview .fifo .cons) k).cmd = .ok i := by rwa [reserved_cmd]
    have hcopy := runSolo_copyIn (n := n) (q := q) (w := takenSide p d h c k) (m := m) hp hi hx' hc
    rwa [hd, reserved_oh, reserved_src, reserved_k] at hcopy

/-- A dequeue alone that reserves `k` positions, whose slots hold `es`. -/
theorem runSolo_dequeue {d : Sync} {h c k : U32} {es : List Element} (hp : p < s.ports.length)
    (hi : ringopUse i = some (.fifo, .cons)) (hx : decodeWord x.cmd = .ok i) (hd : s.cfg.csync0 = d)
    (hc : s.cfg.c0 ≠ 0#32) (hk : s.foundK .cons h x.n x.beh = k) (hk0 : k ≠ 0#32) (hlen : es.length = k.toNat)
    (hes : ∀ j, j < es.length →
      m.readBytes (addrOf s.cfg .fifo (h + BitVec.ofNat 32 j)) (esize s.cfg .fifo) = es[j]?) :
    ∃ x' : Latches, x'.k = k ∧ x'.dst = es ∧
      s.runSolo p .cons (ringopSteps d) (q.busyAt (reserveFirst d) [.ringop, .reserve] x) (idleSide d h c) m =
        .next (s.solo p .cons (q.answered .cons x') (idleSide d (h + k) (c + 1#32)) m 0) := by
  have hcmd : ((x.reserved d h c (s.tailview .fifo .prod) k).fetched es).cmd = x.cmd := by
    rw [Latches.fetched, reserved_cmd]
  have hoh : ((x.reserved d h c (s.tailview .fifo .prod) k).fetched es).oh = h := by
    rw [Latches.fetched, reserved_oh]
  refine ⟨_, published_k d h c k, published_dst d h c k, runSolo_ringop hp hi hx hd hk hk0 hcmd hoh rfl fun n => ?_⟩
  have hx' : decodeWord (x.reserved d h c (s.tailview .fifo .prod) k).cmd = .ok i := by rwa [reserved_cmd]
  have hcopy := runSolo_copyOut (n := n) (q := q) (w := takenSide p d h c k) (m := m) hp hi hx' hc hlen
    (by rwa [reserved_oh])
  rwa [hd] at hcopy

end

/-! ### The statements -/

/-- A ring command waiting on an idle port, asked for `sz` elements of side `sd`, of which it will find `k`, on a side with
nothing open at head `h`. -/
structure WaitsAlone (s : State) (p : Nat) (q : Port) (msg : Message) (rest : List Message) (i : Instr) (sd : Side)
    (sz : U32) (beh : Beh) (k h c : U32) : Prop where
  request : ringRequest i = some (sd, sz, beh)
  some_asked : sz ≠ 0#32
  decodes : decodeMessage s.cfg msg = .ok i
  port : s.ports[p]? = some q
  idle : q.phase = .idle
  waiting : q.cmdch = msg :: rest
  unit : s.r0Ok = true
  pow2 : ispow2 s.cfg.c0 = true
  closed : s.side .fifo sd = idleSide (syncOf s.cfg .fifo sd) h c
  found : s.foundK sd h sz beh = k

/-- The steps of such a command after its acceptance (spec/40 rule R138). -/
def aloneSteps (d : Sync) (k : U32) : Nat := if k = 0#32 then emptySteps d else ringopSteps d

/-- Its side when it has answered. -/
def aloneSide (d : Sync) (h c k : U32) : SideRegs := if k = 0#32 then idleSide d h c else idleSide d (h + k) (c + 1#32)

section
variable {s : State} {p : Nat} {q : Port} {msg : Message} {rest : List Message} {i : Instr} {sd : Side} {sz k h c : U32}
  {beh : Beh}

theorem WaitsAlone.exists_port (w : WaitsAlone s p q msg rest i sd sz beh k h c) : p < s.ports.length :=
  (List.getElem?_eq_some_iff.mp w.port).1

theorem WaitsAlone.ringop (w : WaitsAlone s p q msg rest i sd sz beh k h c) : ringopUse i = some (.fifo, sd) := by
  have hreq := w.request
  cases i <;> cases hreq <;> rfl

theorem WaitsAlone.accepted (w : WaitsAlone s p q msg rest i sd sz beh k h c) (n : Nat) :
    runAlone p (1 + n) s =
      s.runSolo p sd n (({ q with cmdch := rest } : Port).busyAt (reserveFirst (syncOf s.cfg .fifo sd))
        [.ringop, .reserve] (acceptedLat msg sz beh)) (idleSide (syncOf s.cfg .fifo sd) h c) s.fifo.mem := by
  rw [← w.closed]
  exact runSolo_accept w.request w.some_asked w.decodes w.port w.idle w.waiting w.unit

theorem WaitsAlone.enqueues (w : WaitsAlone s p q msg rest i .prod sz beh k h c) :
    ∃ x' : Latches, x'.k = k ∧
      runAlone p (1 + aloneSteps s.cfg.psync0 k) s =
        .next (s.solo p .prod (({ q with cmdch := rest } : Port).answered .prod x') (aloneSide s.cfg.psync0 h c k)
          (copiedMem s.cfg .fifo h msg.payload s.fifo.mem k.toNat) 0) := by
  have hcmd : decodeWord (acceptedLat msg sz beh).cmd = .ok i := (decodeMessage_ok w.decodes).1
  rw [w.accepted, aloneSteps, aloneSide]
  by_cases hk : k = 0#32
  · subst hk
    exact ⟨_, rfl, runSolo_nothing w.exists_port w.ringop hcmd rfl w.found⟩
  · rw [if_neg hk, if_neg hk]
    exact runSolo_enqueue w.exists_port w.ringop hcmd rfl (ne_zero_of_ispow2 w.pow2) w.found hk

theorem WaitsAlone.dequeues (w : WaitsAlone s p q msg rest i .cons sz beh k h c) {es : List Element}
    (hlen : es.length = k.toNat)
    (hes : ∀ j, j < es.length →
      s.fifo.mem.readBytes (addrOf s.cfg .fifo (h + BitVec.ofNat 32 j)) (esize s.cfg .fifo) = es[j]?) :
    ∃ x' : Latches, x'.k = k ∧ x'.dst.take k.toNat = es ∧
      runAlone p (1 + aloneSteps s.cfg.csync0 k) s =
        .next (s.solo p .cons (({ q with cmdch := rest } : Port).answered .cons x') (aloneSide s.cfg.csync0 h c k)
          s.fifo.mem 0) := by
  have hcmd : decodeWord (acceptedLat msg sz beh).cmd = .ok i := (decodeMessage_ok w.decodes).1
  rw [w.accepted, aloneSteps, aloneSide]
  by_cases hk : k = 0#32
  · subst hk
    obtain rfl : es = [] := List.eq_nil_of_length_eq_zero hlen
    exact ⟨_, rfl, rfl, runSolo_nothing w.exists_port w.ringop hcmd rfl w.found⟩
  · rw [if_neg hk, if_neg hk]
    obtain ⟨x', hxk, hdst, hrun⟩ :=
      runSolo_dequeue w.exists_port w.ringop hcmd rfl (ne_zero_of_ispow2 w.pow2) w.found hk hlen hes
    exact ⟨x', hxk, by rw [hdst, ← hlen, List.take_length], hrun⟩

/-- The frame of the run: outside ring 0 only the granted port differs. -/
theorem solo_frame {q' : Port} {w : SideRegs} {m : Memory} (hp : p < s.ports.length) :
    OnlyOwnPort { s with cur := p, sched := [] } (s.solo p sd q' w m 0) ∧ SameOutsideRings s (s.solo p sd q' w m 0) ∧
      (s.solo p sd q' w m 0).ports[p]? = some q' := by
  exact ⟨⟨rfl, rfl, rfl, rfl, List.length_set, fun p' hne => List.getElem?_set_ne hne.symm⟩,
    ⟨⟨rfl, rfl⟩, ⟨rfl, rfl, rfl, rfl⟩, ⟨rfl, rfl⟩, rfl⟩, List.getElem?_set_self hp⟩

/-- The tail of a side of ring 0 (spec/10 rule R22). -/
theorem tailview_eq_ite (s : State) (r : RingId) (sd : Side) :
    s.tailview r sd = if syncOf s.cfg r sd = .hts then hiOf (s.side r sd).a else loOf (s.side r sd).b := by
  split
  · exact tailview_hts ‹_›
  · exact tailview_of_ne_hts ‹_›

/-- The count of a `BULK` command (spec/40 rule R122). -/
theorem foundK_exact {av : U32} (hav : avail s.cfg .fifo sd h (s.tailview .fifo sd.opp) = av)
    (hk : k.toNat = if sz.toNat ≤ av.toNat then sz.toNat else 0) : s.foundK sd h sz .exact = k := by
  apply BitVec.eq_of_toNat_eq
  rw [State.foundK, hav, clamp_exact_toNat, hk]

/-- The count of a `BURST` command. -/
theorem foundK_upTo {av : U32} (hav : avail s.cfg .fifo sd h (s.tailview .fifo sd.opp) = av)
    (hk : k.toNat = min sz.toNat av.toNat) : s.foundK sd h sz .upTo = k := by
  apply BitVec.eq_of_toNat_eq
  rw [State.foundK, hav, clamp_upTo_toNat, hk]

end

/-- Settles O19: acceptance, `RESERVE`, `COPY` and `PUBLISH` of a port that runs alone, and the bytes its copy leaves. -/
theorem enqueueAlone : Obligations.EnqueueAlone := by
  intro s p q m rest i n k h c tail av hreq hn hdec hport hidle hch hok hc hmem d hside hle e addr
  have hav : avail s.cfg .fifo .prod h (s.tailview .fifo .cons) = s.cfg.c0 + tail - h := by
    rw [tailview_eq_ite]
    rfl
  obtain ⟨beh, hrequest, hfound⟩ :
      ∃ beh, ringRequest i = some (.prod, n, beh) ∧ s.foundK .prod h n beh = k := by
    rcases hreq with ⟨rfl, hk⟩ | ⟨rfl, hk⟩
    · exact ⟨.exact, rfl, foundK_exact hav hk⟩
    · exact ⟨.upTo, rfl, foundK_upTo hav hk⟩
  have hw : WaitsAlone s p q m rest i .prod n beh k h c :=
    ⟨hrequest, hn, hdec, hport, hidle, hch, hok, hc, hside, hfound⟩
  obtain ⟨x', hxk, hrun⟩ := hw.enqueues
  obtain ⟨hown, hout, hq'⟩ := solo_frame (s := s) (sd := .prod) (w := aloneSide d h c k)
    (q' := ({ q with cmdch := rest } : Port).answered .prod x')
    (m := copiedMem s.cfg .fifo h m.payload s.fifo.mem k.toNat) hw.exists_port
  have haddr : ∀ j, addrOf s.cfg .fifo (h + BitVec.ofNat 32 j) = addr j := fun j => addrOf_eq _ hc
  refine ⟨_, _, hrun, hown, hout, rfl, hq', rfl, rfl, ?_, rfl, rfl, fun j hj b hb => ?_, fun a ha => ?_⟩
  · rw [← hxk]
    rfl
  · rw [← haddr]
    exact copiedMem_read_slot (cfg := s.cfg) (r := .fifo) hmem hc hb hle hj
  · exact copiedMem_read_outside hmem fun j hj => haddr j ▸ ha j hj

/-- Settles O20: the same run on the consumer side, whose copy reads. -/
theorem dequeueAlone : Obligations.DequeueAlone := by
  intro s p q m rest i n k h c es tail av hreq hn hdec hport hidle hch hok hc d hside hle hlen e hes
  have hav : avail s.cfg .fifo .cons h (s.tailview .fifo .prod) = tail - h := by
    rw [tailview_eq_ite]
    rfl
  obtain ⟨beh, hrequest, hfound⟩ :
      ∃ beh, ringRequest i = some (.cons, n, beh) ∧ s.foundK .cons h n beh = k := by
    rcases hreq with ⟨rfl, hk⟩ | ⟨rfl, hk⟩
    · exact ⟨.exact, rfl, foundK_exact hav hk⟩
    · exact ⟨.upTo, rfl, foundK_upTo hav hk⟩
  have hw : WaitsAlone s p q m rest i .cons n beh k h c :=
    ⟨hrequest, hn, hdec, hport, hidle, hch, hok, hc, hside, hfound⟩
  have hslots : ∀ j, j < es.length →
      s.fifo.mem.readBytes (addrOf s.cfg .fifo (h + BitVec.ofNat 32 j)) (esize s.cfg .fifo) = es[j]? := fun j hj => by
    rw [addrOf_eq (cfg := s.cfg) (r := .fifo) _ hc]
    exact hes j (hlen ▸ hj)
  obtain ⟨x', hxk, hdst, hrun⟩ := hw.dequeues hlen hslots
  obtain ⟨hown, hout, hq'⟩ := solo_frame (s := s) (sd := .cons) (w := aloneSide d h c k)
    (q' := ({ q with cmdch := rest } : Port).answered .cons x') (m := s.fifo.mem) hw.exists_port
  refine ⟨_, _, hrun, hown, hout, rfl, hq', rfl, rfl, ?_, rfl, rfl, rfl⟩
  simp only [Port.answered, ringAnswer, hxk, hdst]

end Sys2Proof.Machine
end

section
/-! PROOFS. The command word (spec/30_encoding.md): every command is read back from its word (rules R90 to R96), a word
that decodes is the word of its command, and the rows of the opcode table say which words decode. -/

namespace Sys2Proof

/-! ### Decode after encode (rules R90 to R96) -/

/-- A command without operands is read back from its fields. -/
@[simp] theorem decodePlain_assemble (o : BitVec 8) (i : Instr) :
    decodePlain (assemble o false 0#32 0#64) i = .ok i := by
  simp [decodePlain]

@[simp] theorem decodeArg32_assemble (o : BitVec 8) (n : U32) (f : U32 → Instr) :
    decodeArg32 (assemble o false n 0#64) f = .ok (f n) := by
  simp [decodeArg32]

@[simp] theorem decodeCheck_assemble (o : BitVec 8) (t : U64) (wait : Bool) :
    decodeCheck (assemble o wait 0#32 t) = .ok (.check t wait) := by
  simp [decodeCheck]

@[simp] theorem decodeCsrRd_assemble (o : BitVec 8) (reg : U32) (idx : U64) :
    decodeCsrRd (assemble o false reg idx) = .ok (.csrRd reg idx) := by
  simp [decodeCsrRd]

/-- A word whose reserved bits are 0 is decoded by its opcode. -/
theorem decodeWord_assemble (o : BitVec 8) (w : Bool) (a : U32) (b : U64) :
    decodeWord (assemble o w a b) = decodeOpcode (assemble o w a b) := by
  simp [decodeWord]

/-- Each command is read back from its word: its opcode selects its own row of the table, whose operand fields are those
that the encoder filled. -/
theorem decodeWord_encode (i : Instr) : decodeWord (encode i) = .ok i := by
  cases i <;> simp [encode, Instr.opcode, decodeWord_assemble, decodeOpcode]

/-- The 16 bytes of a word are read as that word (rule R62). -/
theorem decodeBytes_leBytes (w : U128) : decodeBytes (leBytes 16 w.toNat) = decodeWord w := by
  have htake : (leBytes 16 w.toNat).take 16 = leBytes 16 w.toNat := List.take_of_length_le (by simp)
  have hval : leValue (leBytes 16 w.toNat) = w.toNat := by
    rw [leValue_leBytes]
    exact Nat.mod_eq_of_lt (by have := w.isLt; omega)
  rw [decodeBytes, htake, hval, BitVec.ofNat_toNat, BitVec.setWidth_eq]

/-- The size that a command's word asks for is the size that the command asks for (rule R93). -/
theorem payloadBytesOf_encode (cfg : Params) (i : Instr) : payloadBytesOf cfg (encode i) = i.payloadSize cfg := by
  cases i <;> simp [payloadBytesOf, encode, Instr.opcode, Instr.payloadSize]

/-- Settles O1: the word by its fields, the bytes by the word, the message by the word and the payload's size. -/
theorem decodeEncode : Obligations.DecodeEncode := by
  intro i
  have hbytes : decodeBytes (leBytes 16 (encode i).toNat) = .ok i := by
    rw [decodeBytes_leBytes, decodeWord_encode]
  refine ⟨decodeWord_encode i, hbytes, ?_, fun cfg pl => ?_⟩
  · rw [decodeTableWord, Nat.mod_eq_of_lt (encode i).isLt, hbytes]
  · simp only [decodeMessage, decodeWord_encode, payloadBytesOf_encode, Instr.wf, decide_eq_true_eq]

/-! ### Encode after decode -/

/-- A word with its reserved bits at 0 whose fields are read by the row of `o` is the word of what the row reads. -/
theorem encode_of_decodeOpcode {w : U128} {i : Instr} (hr : fieldReserved w = 0#23) (h : decodeOpcode w = .ok i) :
    encode i = w := by
  have hw := assemble_fields w hr
  unfold decodeOpcode at h
  split at h
  case h_5 ho | h_6 ho | h_10 ho | h_15 ho | h_17 ho =>
    obtain ⟨hwait, h32, h64, rfl⟩ := decodePlain_ok h
    rw [← hw, ho, hwait, h32, h64]
    rfl
  case h_11 ho =>
    obtain ⟨h32, rfl⟩ := decodeCheck_ok h
    rw [← hw]
    simp [ho, h32, encode, Instr.opcode]
  case h_18 ho =>
    obtain ⟨hwait, rfl⟩ := decodeCsrRd_ok h
    rw [← hw]
    simp [ho, hwait, encode, Instr.opcode]
  case h_19 => cases h
  all_goals
    rename_i ho
    obtain ⟨hwait, h64, rfl⟩ := decodeArg32_ok h
    rw [← hw]
    simp [ho, hwait, h64, encode, Instr.opcode]

/-- Settles O2: a word that decodes has its reserved bits at 0, and each row reads or tests every other field. -/
theorem encodeDecode : Obligations.EncodeDecode := by
  intro w i h
  unfold decodeWord at h
  split at h
  · cases h
  · rename_i hr
    exact encode_of_decodeOpcode (not_not.mp hr) h

/-! ### The rows of the opcode table (rules R94, R95) -/

/-- Two words with the same fields are the same word. -/
theorem word_ext {v w : U128} (h8 : fieldOpc v = fieldOpc w) (hwait : fieldWait v = fieldWait w)
    (hr : fieldReserved v = fieldReserved w) (h32 : fieldArg32 v = fieldArg32 w) (h64 : fieldArg64 v = fieldArg64 w) :
    v = w := by
  have field : ∀ start len i, v.extractLsb' start len = w.extractLsb' start len → start ≤ i → i < start + len →
      v.getLsbD i = w.getLsbD i := fun start len i h hlow hhigh => by
    have hbit := congrArg (fun u => u.getLsbD (i - start)) h
    simpa [show i - start < len by omega, Nat.add_sub_cancel' hlow] using hbit
  refine BitVec.eq_of_getLsbD_eq fun i hi => ?_
  by_cases hi8 : i < 8
  · exact field 0 8 i h8 (by omega) (by omega)
  by_cases hi9 : i = 8
  · exact hi9 ▸ hwait
  by_cases hi32 : i < 32
  · exact field 9 23 i hr (by omega) (by omega)
  by_cases hi64 : i < 64
  · exact field 32 32 i h32 (by omega) (by omega)
  · exact field 64 64 i h64 (by omega) (by omega)

theorem fieldOpc_and (v w : U128) : fieldOpc (v &&& w) = fieldOpc v &&& fieldOpc w := BitVec.extractLsb'_and ..

theorem fieldWait_and (v w : U128) : fieldWait (v &&& w) = (fieldWait v && fieldWait w) := BitVec.getLsbD_and

theorem fieldReserved_and (v w : U128) : fieldReserved (v &&& w) = fieldReserved v &&& fieldReserved w :=
  BitVec.extractLsb'_and ..

theorem fieldArg32_and (v w : U128) : fieldArg32 (v &&& w) = fieldArg32 v &&& fieldArg32 w := BitVec.extractLsb'_and ..

theorem fieldArg64_and (v w : U128) : fieldArg64 (v &&& w) = fieldArg64 v &&& fieldArg64 w := BitVec.extractLsb'_and ..

/-- A field of a mask that is tested, or is an operand. -/
def testField (tested : Bool) (n : Nat) : BitVec n := if tested then BitVec.allOnes n else 0#n

theorem and_testField_eq_zero {n : Nat} (x : BitVec n) (tested : Bool) :
    x &&& testField tested n = 0#n ↔ (tested = true → x = 0#n) := by
  cases tested <;> simp [testField, -BitVec.ofNat_eq_ofNat]

/-- The mask of a table row: `OPC` and the reserved bits are tested, and those of `W`, `ARG32` and `ARG64` that are no
operand of the command. -/
def rowMask (wait arg32 arg64 : Bool) : U128 :=
  testField arg64 64 ++ (testField arg32 32 ++ (BitVec.allOnes 23 ++ (BitVec.ofBool wait ++ BitVec.allOnes 8)))

theorem rowMask_fields (wait arg32 arg64 : Bool) :
    fieldOpc (rowMask wait arg32 arg64) = BitVec.allOnes 8 ∧ fieldWait (rowMask wait arg32 arg64) = wait ∧
      fieldReserved (rowMask wait arg32 arg64) = BitVec.allOnes 23 ∧
      fieldArg32 (rowMask wait arg32 arg64) = testField arg32 32 ∧
      fieldArg64 (rowMask wait arg32 arg64) = testField arg64 64 := by
  cases wait <;> cases arg32 <;> cases arg64 <;> decide

/-- A word matches a row exactly when it is assembled from the row's opcode and from fields that are 0 where the row
tests them. -/
theorem matches_row_iff (w : U128) (o : BitVec 8) (wait arg32 arg64 : Bool) :
    w &&& rowMask wait arg32 arg64 = assemble o false 0#32 0#64 ↔
      ∃ x a b, w = assemble o x a b ∧ (wait = true → x = false) ∧ (arg32 = true → a = 0#32) ∧
        (arg64 = true → b = 0#64) := by
  obtain ⟨m8, mwait, mr, m32, m64⟩ := rowMask_fields wait arg32 arg64
  constructor
  · intro h
    have h8 := congrArg fieldOpc h
    have hwait := congrArg fieldWait h
    have hr := congrArg fieldReserved h
    have h32 := congrArg fieldArg32 h
    have h64 := congrArg fieldArg64 h
    simp only [fieldOpc_and, fieldWait_and, fieldReserved_and, fieldArg32_and, fieldArg64_and, m8, mwait, mr, m32, m64,
      fieldOpc_assemble, fieldWait_assemble, fieldReserved_assemble, fieldArg32_assemble, fieldArg64_assemble,
      BitVec.and_allOnes, and_testField_eq_zero] at h8 hwait hr h32 h64
    refine ⟨fieldWait w, fieldArg32 w, fieldArg64 w, h8 ▸ (assemble_fields w hr).symm, ?_, h32, h64⟩
    rintro rfl
    simpa using hwait
  · rintro ⟨x, a, b, rfl, hx, ha, hb⟩
    apply word_ext
    · simp only [fieldOpc_and, m8, fieldOpc_assemble, BitVec.and_allOnes]
    · simp only [fieldWait_and, mwait, fieldWait_assemble]
      cases wait
      · simp
      · simp [hx]
    · simp [fieldReserved_and]
    · simpa only [fieldArg32_and, m32, fieldArg32_assemble, and_testField_eq_zero] using ha
    · simpa only [fieldArg64_and, m64, fieldArg64_assemble, and_testField_eq_zero] using hb

/-- The mask of a command's row, by the operand fields that the command has (rules R91, R94). -/
def Instr.mask : Instr → U128
  | .enqBulk _ => rowMask true false true
  | .enqBurst _ => rowMask true false true
  | .deqBulk _ => rowMask true false true
  | .deqBurst _ => rowMask true false true
  | .ringCount => rowMask true true true
  | .ringFree => rowMask true true true
  | .thrReg _ => rowMask true false true
  | .thrUnreg _ => rowMask true false true
  | .quiescent _ => rowMask true false true
  | .start => rowMask true true true
  | .check _ _ => rowMask false true false
  | .sync _ => rowMask true false true
  | .rdLock _ => rowMask true false true
  | .rdUnlock _ => rowMask true false true
  | .dqEnq => rowMask true true true
  | .dqReclaim _ => rowMask true false true
  | .dqDelete => rowMask true true true
  | .csrRd _ _ => rowMask true false false

/-- The match word of a row is its opcode. -/
theorem assemble_eq_setWidth (o : BitVec 8) : assemble o false 0#32 0#64 = o.setWidth 128 := by
  refine BitVec.eq_of_getLsbD_eq fun i hi => ?_
  simp only [assemble, BitVec.getLsbD_append, BitVec.getLsbD_setWidth, BitVec.getLsbD_zero]
  by_cases h8 : i < 8
  · simp [h8, hi, show i < 64 by omega, show i < 32 by omega, show i < 9 by omega]
  · simp [h8, BitVec.getLsbD_of_ge o i (by omega)]

/-- The four masks of the opcode table. -/
theorem rowMask_values :
    rowMask true true true = 0xFFFFFFFFFFFFFFFFFFFFFFFFFFFFFFFF#128 ∧
      rowMask true false true = 0xFFFFFFFFFFFFFFFF00000000FFFFFFFF#128 ∧
      rowMask false true false = 0x0000000000000000FFFFFFFFFFFFFEFF#128 ∧
      rowMask true false false = 0x000000000000000000000000FFFFFFFF#128 := by decide

/-- A command's word matches its row. -/
theorem encode_matches_row (i : Instr) : encode i &&& i.mask = assemble i.opcode false 0#32 0#64 := by
  cases i <;> exact (matches_row_iff _ _ _ _ _).mpr ⟨_, _, _, rfl, by simp, by simp, by simp⟩

/-- The words that decode are the words of the commands. -/
theorem exists_decode_iff (w : U128) : (∃ i, decodeWord w = .ok i) ↔ ∃ i, encode i = w :=
  ⟨fun ⟨i, h⟩ => ⟨i, encodeDecode w i h⟩, fun ⟨i, h⟩ => ⟨i, h ▸ decodeWord_encode i⟩⟩

/-- A word that matches the row of a command whose one operand is `ARG32`. -/
theorem exists_encode_of_arg32_row {w : U128} {o : BitVec 8} (f : U32 → Instr)
    (hf : ∀ n, encode (f n) = assemble o false n 0#64)
    (h : w &&& rowMask true false true = assemble o false 0#32 0#64) : ∃ i, encode i = w := by
  obtain ⟨x, a, b, rfl, hx, -, hb⟩ := (matches_row_iff _ _ _ _ _).mp h
  exact ⟨f a, by rw [hf, hx rfl, hb rfl]⟩

/-- A word that matches the row of a command without operands. -/
theorem exists_encode_of_plain_row {w : U128} {o : BitVec 8} (i : Instr) (hi : encode i = assemble o false 0#32 0#64)
    (h : w &&& rowMask true true true = assemble o false 0#32 0#64) : ∃ i, encode i = w := by
  obtain ⟨x, a, b, rfl, hx, ha, hb⟩ := (matches_row_iff _ _ _ _ _).mp h
  exact ⟨i, by rw [hi, hx rfl, ha rfl, hb rfl]⟩

/-- Settles O3: the word of a command matches the command's row, and a word that matches a row is the word of the
command with the operands that the row leaves free. -/
theorem legalWords : Obligations.LegalWords := by
  intro w
  rw [exists_decode_iff]
  constructor
  · rintro ⟨i, rfl⟩
    refine ⟨(assemble i.opcode false 0#32 0#64, i.mask), ?_, encode_matches_row i⟩
    cases i <;> simp [assemble_eq_setWidth, Instr.opcode, Instr.mask, rowMask_values]
  · rintro ⟨row, hrow, hw⟩
    simp only [List.mem_cons, List.not_mem_nil, or_false] at hrow
    rcases hrow with rfl | rfl | rfl | rfl | rfl | rfl | rfl | rfl | rfl | rfl | rfl | rfl | rfl | rfl | rfl | rfl |
      rfl | rfl
    · exact exists_encode_of_arg32_row .enqBulk (fun _ => rfl) hw
    · exact exists_encode_of_arg32_row .enqBurst (fun _ => rfl) hw
    · exact exists_encode_of_arg32_row .deqBulk (fun _ => rfl) hw
    · exact exists_encode_of_arg32_row .deqBurst (fun _ => rfl) hw
    · exact exists_encode_of_plain_row .ringCount rfl hw
    · exact exists_encode_of_plain_row .ringFree rfl hw
    · exact exists_encode_of_arg32_row .thrReg (fun _ => rfl) hw
    · exact exists_encode_of_arg32_row .thrUnreg (fun _ => rfl) hw
    · exact exists_encode_of_arg32_row .quiescent (fun _ => rfl) hw
    · exact exists_encode_of_plain_row .start rfl hw
    · obtain ⟨x, a, b, rfl, -, ha, -⟩ := (matches_row_iff _ 0x14#8 false true false).mp hw
      exact ⟨.check b x, by rw [ha rfl]; rfl⟩
    · exact exists_encode_of_arg32_row .sync (fun _ => rfl) hw
    · exact exists_encode_of_arg32_row .rdLock (fun _ => rfl) hw
    · exact exists_encode_of_arg32_row .rdUnlock (fun _ => rfl) hw
    · exact exists_encode_of_plain_row .dqEnq rfl hw
    · exact exists_encode_of_arg32_row .dqReclaim (fun _ => rfl) hw
    · exact exists_encode_of_plain_row .dqDelete rfl hw
    · obtain ⟨x, a, b, rfl, hx, -, -⟩ := (matches_row_iff _ 0x30#8 true false false).mp hw
      exact ⟨.csrRd a b, by rw [hx rfl]; rfl⟩

/-! ### The worked encodings (rules R101, R106) -/

/-- Settles O4: each command's word is the encoder's, which `decodeWord_encode` reads back. -/
theorem workedEncodings : Obligations.WorkedEncodings := by
  refine ⟨fun x hx => ?_, by decide, by decide, by decide, by decide, fun st => by cases st <;> decide⟩
  have hword : encode x.2 = x.1 := by
    revert x
    decide
  exact ⟨hword ▸ decodeWord_encode x.2, hword⟩

end Sys2Proof
end

section
/-! PROOFS. The head of the reclaim pass and its end (spec/43 rule R222), in the words of the statements, and with them the
step that frees an entry. -/

namespace Sys2Proof.Machine

/-- A command that reclaims goes on when its pass returns. -/
theorem exists_afterReclaimOf {i : Instr} (h : reclaims i = true) : ∃ k, afterReclaimOf i = some k := by
  cases i <;> first | exact ⟨_, rfl⟩ | cases h

/-- The end of a reclaim pass, in the words of the statements (spec/43 rules R224 to R226). -/
theorem afterReclaimOf_outcome {i : Instr} {k : State → Flow} {s u : State} {l : Latches} (hk : afterReclaimOf i = some k)
    (h : Updated s u l) : ∃ t, (k u).outcome = .next t ∧ OnlyOwnPort s t ∧ SameShared u t ∧ AfterReclaim i s t l := by
  have hl := h.lat
  cases i <;> cases hk
  case dqEnq =>
    obtain ⟨t, hnext, hown, hshared, hlat, hans⟩ := h.respond .ok (if l.kq then 1#32 else 0#32) l.tok []
    exact ⟨t, by rw [dqEnqDone, hl]; exact hnext, hown, hshared, hlat, hans⟩
  case dqReclaim n =>
    obtain ⟨t, hnext, hown, hshared, hlat, hans⟩ := h.respond .ok l.freed 0#64 []
    exact ⟨t, by rw [dqReclaimDone, hl]; exact hnext, hown, hshared, hlat, hans⟩
  case dqDelete =>
    by_cases hb : l.why = .blocked
    · obtain ⟨t, hnext, hown, hshared, hlat, hans⟩ := h.respond .ePending l.freed 0#64 []
      have hpass : (dqDeletePassed u).outcome = .next t := by
        rw [dqDeletePassed, hl, if_pos hb]
        exact hnext
      have hafter : AfterReclaim .dqDelete s t l := ⟨hlat, by simpa only [if_pos hb] using hans⟩
      exact ⟨t, hpass, hown, hshared, hafter⟩
    · obtain ⟨t, hnext, hown, hshared, hlat, hcont⟩ := h.goto .z1 []
      have hpass : (dqDeletePassed u).outcome = .next t := by
        rw [dqDeletePassed, hl, if_neg hb]
        exact hnext
      have hafter : AfterReclaim .dqDelete s t l := ⟨hlat, by simpa only [if_neg hb] using hcont⟩
      exact ⟨t, hpass, hown, hshared, hafter⟩

/-- The head of the pass, in the words of the statements (spec/43 rule R222). -/
theorem reclaimLoop_outcome {i : Instr} {k : State → Flow} {s u : State} {l : Latches} (hk : afterReclaimOf i = some k)
    (h : Updated s u l) : ∃ t, ((reclaimLoop u).within .reclaimseq k).outcome = .next t ∧ OnlyOwnPort s t ∧
      SameShared u t ∧ AtReclaimLoop i s t l := by
  simp only [reclaimLoop, h.lat, AtReclaimLoop]
  split
  · obtain ⟨t, hnext, hown, hshared, hafter⟩ := afterReclaimOf_outcome hk (h.updLat fun x => { x with why := .limit })
    exact ⟨t, hnext, hown, hshared, hafter⟩
  · obtain ⟨t, hnext, hown, hshared, hlat, hcont⟩ :=
      (h.updLat fun x => { x with n := 1#32, beh := .exact }).goto .h1 [.reclaimseq, .reserve]
    exact ⟨t, hnext, hown, hshared, hlat, hcont⟩

/-- Settles O36: `X2` stores the consumer word and appends the message, and the pass is at its head again. -/
theorem reclaimFrees : Obligations.ReclaimFrees := by
  intro i s hi hat
  obtain ⟨k, hk⟩ := exists_afterReclaimOf hi
  let v := s.setA .defer .cons (pack (s.lat.oh + 1#32) (s.lat.oh + 1#32))
  let m : FreeMsg := { ctx := s.cfg.dqCtx, element := entryElem s.lat.ent, count := 1#32 }
  have hv : Updated s v s.lat := (Updated.refl hat.1).setA _ _ _
  have hm : Updated s (v.emitFree m) s.lat := hv.shared rfl rfl rfl rfl rfl
  obtain ⟨t, hnext, hown, ⟨(hrings : SameRings v t), htokens, hthreads, hflags, hfree⟩, hloop⟩ :=
    reclaimLoop_outcome hk (hm.updLat fun l => { l with freed := l.freed + 1#32 })
  have hside : t.side .defer .cons = v.side .defer .cons := side_of_sameRings hrings _ _
  have honly : OnlySide s t .defer .cons := (onlySide_setSide s .defer .cons _).trans
    ⟨fun _ => mem_of_sameRings hrings _, fun _ _ _ => side_of_sameRings hrings _ _⟩
  refine ⟨t, ?_, hown, honly, htokens, hthreads, hflags, hside, hfree, hloop⟩
  rw [exec_busy hat, lineFlow_reclaim hk]
  exact hnext

end Sys2Proof.Machine
end

section
/-! PROOFS. The acceptance step (spec/30_encoding.md rules R92, R95, R97, R98): what it does to the granted port, said once
as one update of that port, and the statement about it. -/

namespace Sys2Proof.Machine

/-! ### The granted port after its acceptance step -/

/-- The port has consumed its oldest message and answered a status with count 0 and value 0. -/
def Port.dismissed (q : Port) (st : Status) : Port :=
  { q with
    phase := .idle
    cmdch := q.cmdch.tail
    rspch := q.rspch ++ [{ word := responseWord st 0#32 0#64, payload := [] }] }

/-- The latches that a command writes in the step that accepts it (log entry 14). -/
def enterLat (i : Instr) (l : Latches) : Latches :=
  match i with
  | .check t wait => { l with t := t, wt := wait }
  | _ =>
    match ringRequest i with
    | some (_, n, beh) => { l with n := n, beh := beh }
    | none => l

/-- The latches of the command `i`, accepted with the message `m`, at its first line. -/
def enteredLat (i : Instr) (m : Message) : Latches := enterLat i { Latches.reset with cmd := m.word, src := m.payload }

/-- The port has consumed its oldest message `m` and stands at the first line of the command `i`. -/
def Port.entered (q : Port) (cfg : Params) (i : Instr) (m : Message) : Port :=
  { q with phase := .busy (firstLine cfg i).1 (firstLine cfg i).2, cmdch := q.cmdch.tail, lat := enteredLat i m }

/-- What the acceptance step of the command `i` with the message `m` does to its port (rules R92, R97, R98). -/
def State.acceptPort (s : State) (i : Instr) (m : Message) : Port → Port :=
  if s.unitOk (unitOf i) = false then fun q => q.dismissed .eCfg
  else if operandErrorOf s i = true then fun q => q.dismissed .eInval
  else if zeroCountOf i = true then fun q => q.dismissed .ok
  else fun q => q.entered s.cfg i m

theorem popCmd_respond (s : State) (st : Status) :
    s.popCmd.respond st 0#32 0#64 = s.updPort fun q => q.dismissed st := by
  simp only [State.popCmd, State.respond, State.respondWith, State.updPort, State.updPortAt, list_modify_modify]
  rfl

theorem enterState_latch (i : Instr) (s : State) (m : Message) :
    enterState i (s.popCmd.latch m) = s.updPort fun q => { q with cmdch := q.cmdch.tail, lat := enteredLat i m } := by
  have hlatch : s.popCmd.latch m = s.updPort fun q =>
      { q with cmdch := q.cmdch.tail, lat := { Latches.reset with cmd := m.word, src := m.payload } } := by
    simp only [State.popCmd, State.latch, State.updLat, State.updPort, State.updPortAt, list_modify_modify]
  rw [hlatch]
  cases i <;> simp only [enterState, ringRequest, enteredLat, enterLat, State.updLat, State.updPort, State.updPortAt,
    list_modify_modify]

/-- The acceptance step of a command is one update of its port. -/
theorem exec_accept {i : Instr} {s : State} {m : Message} {rest : List Message} (h : s.waiting m rest) :
    exec i s = .next (s.updPort (s.acceptPort i m)) := by
  obtain ⟨hc, hp, hch⟩ := h
  rw [exec_idle hc hp, accept_waiting hch, State.acceptPort]
  by_cases hu : s.unitOk (unitOf i) = false
  · simp [hu, popCmd_respond]
  by_cases ho : operandErrorOf s i = true
  · simp [hu, ho, popCmd_respond]
  by_cases hz : zeroCountOf i = true
  · simp [hu, ho, hz, popCmd_respond]
  · simp only [hu, ho, hz]
    simp [enterOf, enterState_latch, State.setPhase, State.updPort, State.updPortAt]
    rfl

/-! ### The grant -/

/-- A change of the granted port leaves all shared state and every other port, and its port is the changed one. -/
theorem updPort_frame (s : State) (f : Port → Port) (h : s.granted) :
    SameShared s (s.updPort f) ∧ OnlyOwnPort s (s.updPort f) ∧ (s.updPort f).ports[s.cur]? = some (f s.port) :=
  ⟨⟨⟨rfl, rfl⟩, ⟨rfl, rfl⟩, ⟨rfl, rfl, rfl, rfl⟩, ⟨rfl, rfl⟩, rfl⟩, .updPort s f, by
    rw [State.updPort_getElem?, if_pos rfl, State.getElem?_cur s h]
    rfl⟩

/-- Port `p` granted, the first event taken off the list. -/
abbrev State.taken (s : State) (p : Nat) (es : List Event) : State := { s with sched := es, cur := p }

theorem acceptPort_taken (s : State) (p : Nat) (es : List Event) (i : Instr) (m : Message) :
    (s.taken p es).acceptPort i m = s.acceptPort i m := by
  have hu : ∀ u, (s.taken p es).unitOk u = s.unitOk u := fun u => by cases u <;> rfl
  have ho : operandErrorOf (s.taken p es) i = operandErrorOf s i := by cases i <;> rfl
  simp only [State.acceptPort, hu, ho]

/-- What a grant does to an idle port whose oldest message is `m` (rules R92, R95). -/
def State.grantPort (s : State) (m : Message) : Port → Port :=
  match decodeMessage s.cfg m with
  | .error _ => fun q => q.dismissed .eIllcmd
  | .ok i => s.acceptPort i m

/-- A grant to an idle port with a waiting message is one update of that port. -/
theorem step_grant_waiting {s : State} {es : List Event} {p : Nat} {q : Port} {m : Message} {rest : List Message}
    (hs : s.sched = .grant p :: es) (hq : s.ports[p]? = some q) (hidle : q.phase = .idle) (hch : q.cmdch = m :: rest) :
    step s = .next ((s.taken p es).updPort (s.grantPort m)) := by
  have hq' : ({ s with sched := es } : State).ports[p]? = some q := hq
  rw [step_sched hs, stepEvent_grant hq', State.grantPort]
  cases hm : decodeMessage s.cfg m with
  | ok i =>
    obtain ⟨hg, hport⟩ : (s.taken p es).granted ∧ (s.taken p es).port = q := State.withOwn_port (tick := s.tick) hq
    have hw : (s.taken p es).waiting m rest := ⟨hg, by rw [State.phase, hport, hidle], by rw [hport, hch]⟩
    rw [grantTo_idle (s := { s with sched := es }) hidle hch hm, exec_accept hw, acceptPort_taken]
  | error e =>
    simp only [grantTo, hidle, hch, hm]
    exact congrArg _ (popCmd_respond _ _)

/-- A busy port consumes nothing. -/
theorem step_grant_busy_channel {s t : State} {es : List Event} {p : Nat} {q : Port} {l : Label} {st : List Seq}
    (hs : s.sched = .grant p :: es) (hq : s.ports[p]? = some q) (hbusy : q.phase = .busy l st) (h : step s = .next t) :
    ∃ q', t.ports[p]? = some q' ∧ q'.cmdch = q.cmdch := by
  have hq' : ({ s with sched := es } : State).ports[p]? = some q := hq
  obtain ⟨hg, hport⟩ : (s.taken p es).granted ∧ (s.taken p es).port = q := State.withOwn_port (tick := s.tick) hq
  rw [step_sched hs, stepEvent_grant hq'] at h
  cases hi : q.command with
  | none =>
    simp only [grantTo, hbusy, hi] at h
    cases h
  | some i =>
    rw [grantTo_busy hbusy hi] at h
    have hphase : (s.taken p es).phase ≠ .idle := by
      rw [State.phase, hport, hbusy]
      nofun
    have hkeep : KeepsOthers (s.taken p es) t := exec_busy_keepsOthers hphase h
    refine ⟨t.port, ?_, by rw [hkeep.channel, hport]⟩
    have hcur : t.cur = p := hkeep.cur
    exact hcur ▸ State.getElem?_cur t (hkeep.granted hg)

/-- The operands that an accepted command has latched. -/
theorem enteredLat_operands (i : Instr) (m : Message) :
    (enteredLat i m).cmd = m.word ∧ (enteredLat i m).src = m.payload ∧
      (∀ tok wait, i = .check tok wait → (enteredLat i m).t = tok ∧ (enteredLat i m).wt = wait) ∧
      (∀ n, i = .enqBulk n ∨ i = .deqBulk n → (enteredLat i m).n = n ∧ (enteredLat i m).beh = .exact) ∧
      ∀ n, i = .enqBurst n ∨ i = .deqBurst n → (enteredLat i m).n = n ∧ (enteredLat i m).beh = .upTo := by
  refine ⟨by cases i <;> rfl, by cases i <;> rfl, ?_, ?_, ?_⟩
  · rintro tok wait rfl
    exact ⟨rfl, rfl⟩
  · rintro n (rfl | rfl) <;> exact ⟨rfl, rfl⟩
  · rintro n (rfl | rfl) <;> exact ⟨rfl, rfl⟩

/-- Settles O7: the acceptance step is one update of the granted port, clause by clause. -/
theorem acceptance : Obligations.Acceptance := by
  refine ⟨fun s es p q m rest hs hq hidle hch => ?_, fun s t es p q l st hs hq hbusy h =>
    step_grant_busy_channel hs hq hbusy h⟩
  obtain ⟨hg, hport⟩ : (s.taken p es).granted ∧ (s.taken p es).port = q := State.withOwn_port (tick := s.tick) hq
  obtain ⟨hshared, hown, hq'⟩ := updPort_frame (s.taken p es) (s.grantPort m) hg
  rw [hport] at hq'
  have hstep := step_grant_waiting hs hq hidle hch
  refine ⟨_, _, hstep, hshared, hown, hq', ?_⟩
  have htail : q.cmdch.tail = rest := by rw [hch, List.tail_cons]
  rw [State.grantPort]
  cases hm : decodeMessage s.cfg m with
  | error e => exact ⟨htail, rfl, rfl⟩
  | ok i =>
    simp only [State.acceptPort]
    split
    · exact ⟨htail, rfl, rfl⟩
    split
    · exact ⟨htail, rfl, rfl⟩
    split
    · exact ⟨htail, rfl, rfl⟩
    · exact ⟨htail, rfl, rfl, enteredLat_operands i m⟩

end Sys2Proof.Machine
end

section
/-! PROOFS. A `CHECK` or a reclaim pass that runs alone (spec/42 rule R202, spec/43 rule R222): its port is the only one
granted, so every state on the way is the first one with that port, `ACKED_TOKEN` and the consumer side of ring 1 replaced
(`State.alone`), and a run is a chain of steps between such states (`Leads`). -/

namespace Sys2Proof.Machine

/-! ### The states on the way -/

/-- What a check or a reclaim pass that runs alone can change: its port, `ACKED_TOKEN` and the consumer side of ring 1. -/
structure Conf where
  port : Port
  acked : U64
  cons : SideRegs

/-- `s` with `j` grants of port `p` to come and with the configuration `c`. -/
def State.alone (s : State) (p : Nat) (c : Conf) (j : Nat) : State :=
  { s with
    cur := p
    sched := List.replicate j (.grant p)
    ports := s.ports.set p c.port
    acked := c.acked
    defer := { s.defer with cons := c.cons } }

section
variable {s : State} {p j : Nat} {c : Conf} {q : Port} {a : U64} {w : SideRegs} {l : Label} {st : List Seq} {x : Latches}

@[simp] theorem alone_cfg : (s.alone p c j).cfg = s.cfg := rfl
@[simp] theorem alone_acked : (s.alone p c j).acked = c.acked := rfl
@[simp] theorem alone_bitmap : (s.alone p c j).bitmap = s.bitmap := rfl
@[simp] theorem alone_cntOf (n : Nat) : (s.alone p c j).cntOf n = s.cntOf n := rfl
@[simp] theorem alone_dqAlive : (s.alone p c j).dqAlive = s.dqAlive := rfl
@[simp] theorem alone_cons : (s.alone p c j).side .defer .cons = c.cons := rfl
@[simp] theorem alone_tailview_prod : (s.alone p c j).tailview .defer .prod = s.tailview .defer .prod := rfl
@[simp] theorem alone_memRead (b n : Nat) : (s.alone p c j).memRead .defer b n = s.memRead .defer b n := rfl

theorem alone_granted (hp : p < s.ports.length) : (s.alone p c j).granted := by
  simpa [State.granted, State.alone] using hp

theorem alone_port (hp : p < s.ports.length) : (s.alone p c j).port = c.port := by
  simp [State.port, State.alone, List.getD_eq_getElem?_getD, hp]

@[simp] theorem alone_lat (hp : p < s.ports.length) : (s.alone p c j).lat = c.port.lat := by
  rw [State.lat, alone_port hp]

theorem alone_updPort (f : Port → Port) : (s.alone p c j).updPort f = s.alone p { c with port := f c.port } j := by
  have hset : (s.ports.set p c.port).modify p f = s.ports.set p (f c.port) := by
    apply List.ext_getElem?
    intro n
    by_cases hn : p = n
    · subst hn
      simp [List.getElem?_set]
    · simp [hn]
  simp only [State.alone, State.updPort, State.updPortAt, hset]

@[simp] theorem alone_updLat (f : Latches → Latches) :
    (s.alone p ⟨q.busyAt l st x, a, w⟩ j).updLat f = s.alone p ⟨q.busyAt l st (f x), a, w⟩ j := alone_updPort _

@[simp] theorem alone_setA (v : U64) :
    (s.alone p ⟨q, a, w⟩ j).setA .defer .cons v = s.alone p ⟨q, a, { w with a := v }⟩ j := rfl

@[simp] theorem alone_maxAcked (v : U64) :
    (s.alone p ⟨q, a, w⟩ j).maxAcked v = s.alone p ⟨q, if a < v then v else a, w⟩ j := rfl

@[simp] theorem busyAt_lat : (q.busyAt l st x).lat = x := rfl

/-- Port `p` as it is, granted. -/
theorem alone_self (hq : s.ports[p]? = some q) :
    s.taken p (List.replicate j (.grant p)) = s.alone p ⟨q, s.acked, s.defer.cons⟩ j := by
  obtain ⟨hp, rfl⟩ := List.getElem?_eq_some_iff.mp hq
  rw [State.alone, List.set_getElem_self hp]

/-! ### Runs -/

/-- From the configuration `c` the port gets to `c'` in `k` steps. -/
inductive Leads (s : State) (p : Nat) : Nat → Conf → Conf → Prop
  | stay (c : Conf) : Leads s p 0 c c
  | next {k : Nat} {c c' c'' : Conf} (h : ∀ j, step (s.alone p c (j + 1)) = .next (s.alone p c' j))
    (rest : Leads s p k c' c'') : Leads s p (k + 1) c c''

theorem Leads.one {c c' : Conf} (h : ∀ j, step (s.alone p c (j + 1)) = .next (s.alone p c' j)) :
    Leads s p 1 c c' :=
  .next h (.stay c')

theorem Leads.trans {k n : Nat} {c c' c'' : Conf} (h : Leads s p k c c') (h' : Leads s p n c' c'') :
    Leads s p (k + n) c c'' := by
  induction h with
  | stay c => rwa [Nat.zero_add]
  | next hstep _ ih =>
    rw [Nat.add_right_comm]
    exact .next hstep (ih h')

/-- The run of the machine along such a chain. -/
theorem Leads.run {k : Nat} {c c' : Conf} (h : Leads s p k c c') :
    Sys2Proof.core.run k (s.alone p c k) = .next (s.alone p c' 0) := by
  induction h with
  | stay c => rfl
  | next hstep _ ih => exact (run_succ (hstep _)).trans ih

variable {i : Instr}

/-- A grant to the port at a labelled line of its command. -/
theorem step_alone (hp : p < s.ports.length) (hx : decodeWord x.cmd = .ok i) :
    step (s.alone p ⟨q.busyAt l st x, a, w⟩ (j + 1)) =
      (lineFlow i l st (s.alone p ⟨q.busyAt l st x, a, w⟩ j)).outcome := by
  have hat : (s.alone p ⟨q.busyAt l st x, a, w⟩ j).atLine l st :=
    ⟨alone_granted hp, by rw [State.phase, alone_port hp]; rfl⟩
  rw [step_sched (e := .grant p) (es := List.replicate j (.grant p)) rfl, ← exec_busy hat]
  have hq : (s.ports.set p (q.busyAt l st x))[p]? = some (q.busyAt l st x) := by simp [hp]
  simp only [stepEvent, State.alone, hq]
  exact grantTo_busy rfl (Port.command_eq hx)

/-- A line that goes on. -/
theorem Leads.goto {l' : Label} {st' : List Seq} {x' : Latches} {a' : U64} {w' : SideRegs} (hp : p < s.ports.length)
    (hx : decodeWord x.cmd = .ok i)
    (h : ∀ j, lineFlow i l st (s.alone p ⟨q.busyAt l st x, a, w⟩ j) =
      .goto l' st' (s.alone p ⟨q.busyAt l st x', a', w'⟩ j)) :
    Leads s p 1 ⟨q.busyAt l st x, a, w⟩ ⟨q.busyAt l' st' x', a', w'⟩ := by
  refine Leads.one fun j => ?_
  rw [step_alone hp hx, h j, Flow.outcome_goto, State.setPhase, alone_updPort]
  rfl

/-- The port `q` after an answer without payload, with the latches `x`. -/
def Port.replied (q : Port) (st : Status) (n : U32) (v : U64) (x : Latches) : Port :=
  { q with phase := .idle, lat := x, rspch := q.rspch ++ [{ word := responseWord st n v, payload := [] }] }

/-- A line that ends the command. -/
theorem Leads.respond {x' : Latches} {a' : U64} {w' : SideRegs} {status : Status} {n : U32} {v : U64}
    (hp : p < s.ports.length) (hx : decodeWord x.cmd = .ok i)
    (h : ∀ j, lineFlow i l st (s.alone p ⟨q.busyAt l st x, a, w⟩ j) =
      .ended ((s.alone p ⟨q.busyAt l st x', a', w'⟩ j).respond status n v)) :
    Leads s p 1 ⟨q.busyAt l st x, a, w⟩ ⟨q.replied status n v x', a', w'⟩ := by
  refine Leads.one fun j => ?_
  rw [step_alone hp hx, h j, Flow.outcome_ended, State.respond, State.respondWith, alone_updPort]
  rfl

/-- A command that waits on port `p`, passes acceptance and runs alone from its first line. -/
theorem runAlone_of_leads {m : Message} {rest : List Message} {k : Nat} (hq : s.ports[p]? = some q)
    (hidle : q.phase = .idle) (hch : q.cmdch = m :: rest) (hm : decodeMessage s.cfg m = .ok i)
    (hu : s.unitOk (unitOf i) = true) (ho : operandErrorOf s i = false) (hz : zeroCountOf i = false)
    (h : Leads s p k ⟨({ q with cmdch := rest } : Port).busyAt (firstLine s.cfg i).1 (firstLine s.cfg i).2
      (enteredLat i m), s.acked, s.defer.cons⟩ c) : runAlone p (k + 1) s = .next (s.alone p c 0) := by
  have hgrant : s.grantPort m = fun q => q.entered s.cfg i m := by
    simp [State.grantPort, hm, State.acceptPort, hu, ho, hz]
  have hstep : step (s.grants p (k + 1)) = .next ((s.taken p (List.replicate k (.grant p))).updPort (s.grantPort m)) :=
    step_grant_waiting (s := s.grants p (k + 1)) rfl hq hidle hch
  rw [runAlone, run_succ hstep, hgrant, alone_self hq, alone_updPort, Port.entered, hch]
  exact h.run

end

end Sys2Proof.Machine
end

section
/-! PROOFS. `CHECKSEQ` of a port that runs alone (spec/42_qsbr_commands.md rule R202), under any command that runs it: the
scan takes the registered threads in the order of their ids, so what is left of it is given by one thread id. -/

namespace Sys2Proof.Machine

/-! ### The lowest bit of a bitmap word (line `V3`) -/

theorem lowestSet_spec {v : U64} (h : v ≠ 0#64) :
    lowestSet v < 64 ∧ v.getLsbD (lowestSet v) = true ∧ ∀ j, j < lowestSet v → v.getLsbD j = false := by
  obtain ⟨n, hn⟩ : ∃ n, (List.range 64).find? (fun j => v.getLsbD j) = some n := by
    rw [← Option.isSome_iff_exists, List.find?_isSome]
    by_contra hnone
    refine h (BitVec.eq_of_getLsbD_eq fun j hj => ?_)
    simpa using fun hbit => hnone ⟨j, List.mem_range.mpr hj, hbit⟩
  obtain ⟨hset, hlt, hlow⟩ := List.find?_range_eq_some.mp hn
  rw [lowestSet, hn, Option.getD_some]
  exact ⟨List.mem_range.mp hlt, hset, fun j hj => by simpa using hlow j hj⟩

/-! ### What is left of the scan -/

/-- Every registered thread from id `n` on has reported `tok`. -/
def State.CompleteFrom (s : State) (tok : U64) (n : Nat) : Prop :=
  ∀ i, n ≤ i → i < 64 * s.bitmap.length → s.regd i = true → tok ≤ s.cntOf i

theorem complete_iff_completeFrom (s : State) (tok : U64) : s.Complete tok ↔ s.CompleteFrom tok 0 :=
  ⟨fun h i _ hi hr => h i (List.mem_range.mpr hi) hr, fun h i hi hr => h i i.zero_le (List.mem_range.mp hi) hr⟩

/-- Threads that are not registered do not matter. -/
theorem completeFrom_skip {s : State} {tok : U64} {n m : Nat} (hnm : n ≤ m)
    (h : ∀ i, n ≤ i → i < m → i < 64 * s.bitmap.length → s.regd i = false) :
    s.CompleteFrom tok n ↔ s.CompleteFrom tok m := by
  refine ⟨fun hc i hi => hc i (hnm.trans hi), fun hc i hn hi hr => ?_⟩
  by_cases him : i < m
  · rw [h i hn him hi] at hr
    cases hr
  · exact hc i (Nat.le_of_not_lt him) hi hr

theorem completeFrom_succ {s : State} {tok : U64} {n : Nat} (hn : n < 64 * s.bitmap.length) (hr : s.regd n = true) :
    s.CompleteFrom tok n ↔ tok ≤ s.cntOf n ∧ s.CompleteFrom tok (n + 1) := by
  refine ⟨fun h => ⟨h n le_rfl hn hr, fun i hi => h i (Nat.le_of_succ_le hi)⟩, fun ⟨h, hc⟩ i hi hlt hri => ?_⟩
  rcases hi.eq_or_lt with rfl | hi
  · exact h
  · exact hc i hi hlt hri

theorem completeFrom_end {s : State} {tok : U64} {n : Nat} (h : 64 * s.bitmap.length ≤ n) : s.CompleteFrom tok n :=
  fun _ hi hlt _ => absurd (h.trans hi) (Nat.not_le_of_lt hlt)

/-- The bits of a bitmap word. -/
theorem getLsbD_bitmap (s : State) (v : Nat) {j : Nat} (hj : j < 64) :
    (s.bitmap.getD v 0#64).getLsbD j = s.regd (64 * v + j) := by
  rw [State.regd, show (64 * v + j) / 64 = v by omega, show (64 * v + j) % 64 = j by omega]

/-- The working copy holds what is left of the word `v`: the registered threads from bit `r` on. -/
def State.LeftOfWord (s : State) (v r : Nat) (bm : U64) : Prop :=
  ∀ j, j < 64 → bm.getLsbD j = (decide (r ≤ j) && s.regd (64 * v + j))

theorem leftOfWord_load (s : State) (v : Nat) : s.LeftOfWord v 0 (s.bitmap.getD v 0#64) := fun j hj => by
  rw [getLsbD_bitmap s v hj]
  simp

/-- An empty working copy: no registered thread is left in the word. -/
theorem State.LeftOfWord.skip {s : State} {tok : U64} {v r : Nat} (hr : r ≤ 64) (h : s.LeftOfWord v r 0#64) :
    s.CompleteFrom tok (64 * v + r) ↔ s.CompleteFrom tok (64 * (v + 1)) := by
  refine completeFrom_skip (by omega) fun i hlow hhigh _ => ?_
  have hbit := h (i - 64 * v) (by omega)
  rw [Nat.add_sub_cancel' (by omega)] at hbit
  simpa [show r ≤ i - 64 * v by omega] using hbit

/-- The lowest bit of the working copy is the next registered thread; clearing it leaves the rest of the word. -/
theorem State.LeftOfWord.lowest {s : State} {v r : Nat} {bm : U64} (h : s.LeftOfWord v r bm) (h0 : bm ≠ 0#64) :
    r ≤ lowestSet bm ∧ lowestSet bm < 64 ∧ s.regd (64 * v + lowestSet bm) = true ∧
      (∀ i, 64 * v + r ≤ i → i < 64 * v + lowestSet bm → s.regd i = false) ∧
      s.LeftOfWord v (lowestSet bm + 1) (bm &&& ~~~(bit64 (lowestSet bm))) := by
  obtain ⟨hlt, hset, hlow⟩ := lowestSet_spec h0
  have hhere := h _ hlt
  rw [hset, eq_comm, Bool.and_eq_true, decide_eq_true_eq] at hhere
  refine ⟨hhere.1, hlt, hhere.2, fun i hi hi' => ?_, fun j hj => ?_⟩
  · have hbit := h (i - 64 * v) (by omega)
    rw [Nat.add_sub_cancel' (by omega), hlow _ (by omega)] at hbit
    simpa [show r ≤ i - 64 * v by omega] using hbit
  · simp only [BitVec.getLsbD_and, BitVec.getLsbD_not, hj, bit64_getLsbD _ _ hj, decide_true, Bool.true_and]
    rcases Nat.lt_trichotomy j (lowestSet bm) with hj' | rfl | hj'
    · simp [hlow j hj', Nat.not_le_of_lt (Nat.lt_succ_of_lt hj')]
    · simp
    · rw [h j hj]
      simp [hj'.ne, hhere.1.trans hj'.le, Nat.succ_le_of_lt hj']

/-! ### The lines of the check -/

/-- The command `i` runs `CHECKSEQ` under the return stack `st` and goes on with `k` when it returns. -/
structure RunsCheck (i : Instr) (st : List Seq) (k : State → Flow) : Prop where
  goto : ∀ {l l' : Label} {s s' : State}, checkLine l s = .goto l' [] s' → lineFlow i l st s = .goto l' st s'
  ret : ∀ {l : Label} {s s' : State}, checkLine l s = .ret s' → lineFlow i l st s = k s'

theorem runsCheck_own {i : Instr} {k : State → Flow} (h : afterCheckOf i = some k) : RunsCheck i [.checkseq] k where
  goto h' := by rw [lineFlow_check h, h', Flow.within_goto]
  ret h' := by rw [lineFlow_check h, h', Flow.within_ret]

theorem runsCheck_reclaim {i : Instr} {k : State → Flow} (h : afterReclaimOf i = some k) :
    RunsCheck i [.reclaimseq, .checkseq] fun s => (reclaimChecked s).within .reclaimseq k where
  goto h' := by rw [lineFlow_reclaim h, reclaimLine, h', Flow.within_goto, Flow.within_goto]
  ret h' := by rw [lineFlow_reclaim h, reclaimLine, h', Flow.within_ret]

/-- The latches `x` with those that `CHECKSEQ` writes replaced. -/
def Latches.checked (x : Latches) (wi : U32) (bm minc : U64) (seen okf : Bool) : Latches :=
  { x with wi := wi, bm := bm, minc := minc, seen := seen, okf := okf }

@[simp] theorem checked_cmd (x : Latches) (wi : U32) (bm minc : U64) (seen okf : Bool) :
    (x.checked wi bm minc seen okf).cmd = x.cmd := rfl
@[simp] theorem checked_t (x : Latches) (wi : U32) (bm minc : U64) (seen okf : Bool) :
    (x.checked wi bm minc seen okf).t = x.t := rfl
@[simp] theorem checked_wt (x : Latches) (wi : U32) (bm minc : U64) (seen okf : Bool) :
    (x.checked wi bm minc seen okf).wt = x.wt := rfl
@[simp] theorem checked_scanned (x : Latches) (wi : U32) (bm minc : U64) (seen okf : Bool) :
    (x.checked wi bm minc seen okf).scanned = 64 * wi.toNat + lowestSet bm := rfl

/-- The steps of a scan alone that stands in word `v`, with `n` words and thread ids below `m`, from bit `r` on: a load of
each later word, a counter of each id that is left, and `V4`. -/
def scanSteps (n m v r : Nat) : Nat := (n - (v + 1)) + (m - (64 * v + r)) + 1

section
variable {s : State} {p : Nat} {q : Port} {a : U64} {w : SideRegs} {i : Instr} {st : List Seq} {k : State → Flow}
  {x : Latches}

/-- From the line `l` with the latches `z` the check gets in `n` steps to a line that returns `OK = b` and leaves
`ACKED_TOKEN` at `a'`; of the other latches it keeps those of `x`. -/
def CheckReturns (s : State) (p : Nat) (q : Port) (a : U64) (w : SideRegs) (st : List Seq) (x : Latches) (l : Label)
    (z : Latches) (n : Nat) (a' : U64) (b : Bool) : Prop :=
  ∃ (l' : Label) (z' : Latches) (wi : U32) (bm minc : U64) (seen : Bool),
    Leads s p n ⟨q.busyAt l st z, a, w⟩ ⟨q.busyAt l' st z', a, w⟩ ∧ z'.cmd = x.cmd ∧
      ∀ j, checkLine l' (s.alone p ⟨q.busyAt l' st z', a, w⟩ j) =
        .ret (s.alone p ⟨q.busyAt l' st (x.checked wi bm minc seen b), a', w⟩ j)

/-- From there the check decides `P` within `n` steps, and one step earlier and without changing `ACKED_TOKEN` when `P`
fails. -/
def CheckDecides (s : State) (p : Nat) (q : Port) (a : U64) (w : SideRegs) (st : List Seq) (x : Latches) (l : Label)
    (z : Latches) (n : Nat) (P : Prop) : Prop :=
  (P ∧ ∃ k a', k ≤ n ∧ CheckReturns s p q a w st x l z k a' true) ∨
    (¬P ∧ ∃ k, k < n ∧ CheckReturns s p q a w st x l z k a false)

theorem CheckDecides.congr {l : Label} {z : Latches} {n : Nat} {P Q : Prop}
    (h : CheckDecides s p q a w st x l z n P) (hPQ : P ↔ Q) : CheckDecides s p q a w st x l z n Q := by
  rwa [CheckDecides, ← hPQ]

theorem CheckDecides.mono {l : Label} {z : Latches} {n m : Nat} {P : Prop}
    (h : CheckDecides s p q a w st x l z n P) (hnm : n ≤ m) : CheckDecides s p q a w st x l z m P := by
  rcases h with ⟨hP, k, a', hk, h⟩ | ⟨hP, k, hk, h⟩
  · exact .inl ⟨hP, k, a', hk.trans hnm, h⟩
  · exact .inr ⟨hP, k, hk.trans_le hnm, h⟩

theorem CheckDecides.returns {l : Label} {z : Latches} {n : Nat} {P : Prop} (h : CheckDecides s p q a w st x l z n P) :
    ∃ k a' b, k ≤ n ∧ (b = true ↔ P) ∧ CheckReturns s p q a w st x l z k a' b := by
  rcases h with ⟨hP, k, a', hk, h⟩ | ⟨hP, k, hk, h⟩
  · exact ⟨k, a', true, hk, iff_of_true rfl hP, h⟩
  · exact ⟨k, a, false, hk.le, iff_of_false Bool.false_ne_true hP, h⟩

/-- One step earlier. -/
theorem CheckDecides.before {l l' : Label} {z z' : Latches} {n : Nat} {P : Prop}
    (hstep : Leads s p 1 ⟨q.busyAt l st z, a, w⟩ ⟨q.busyAt l' st z', a, w⟩)
    (h : CheckDecides s p q a w st x l' z' n P) : CheckDecides s p q a w st x l z (n + 1) P := by
  have hback : ∀ {k a' b}, CheckReturns s p q a w st x l' z' k a' b → CheckReturns s p q a w st x l z (k + 1) a' b := by
    rintro k a' b ⟨l'', z'', wi, bm, minc, seen, hleads, hrest⟩
    exact ⟨l'', z'', wi, bm, minc, seen, Nat.add_comm 1 k ▸ hstep.trans hleads, hrest⟩
  rcases h with ⟨hP, k, a', hk, h⟩ | ⟨hP, k, hk, h⟩
  · exact .inl ⟨hP, k + 1, a', Nat.succ_le_succ hk, hback h⟩
  · exact .inr ⟨hP, k + 1, Nat.succ_lt_succ hk, hback h⟩

/-- The line returns in this step. -/
theorem checkReturns_now {l : Label} {z : Latches} {wi : U32} {bm minc : U64} {seen b : Bool} {a' : U64}
    (hz : z.cmd = x.cmd)
    (h : ∀ j, checkLine l (s.alone p ⟨q.busyAt l st z, a, w⟩ j) =
      .ret (s.alone p ⟨q.busyAt l st (x.checked wi bm minc seen b), a', w⟩ j)) :
    CheckReturns s p q a w st x l z 0 a' b :=
  ⟨l, z, wi, bm, minc, seen, .stay _, hz, h⟩

/-- The line goes on to another one. -/
theorem leads_checkLine {l l' : Label} {z z' : Latches} (hp : p < s.ports.length) (hc : RunsCheck i st k)
    (hx : decodeWord x.cmd = .ok i) (hz : z.cmd = x.cmd)
    (h : ∀ j, checkLine l (s.alone p ⟨q.busyAt l st z, a, w⟩ j) = .goto l' [] (s.alone p ⟨q.busyAt l st z', a, w⟩ j)) :
    Leads s p 1 ⟨q.busyAt l st z, a, w⟩ ⟨q.busyAt l' st z', a, w⟩ :=
  Leads.goto hp (by rwa [hz]) fun j => hc.goto (h j)

/-! ### The scan -/

/-- `V4` returns success. -/
theorem checkDecides_ack {wi : U32} {bm minc : U64} {seen : Bool} (hp : p < s.ports.length) {P : Prop} (hP : P) :
    CheckDecides s p q a w st x .v4 (x.checked wi bm minc seen x.okf) 0 P := by
  refine .inl ⟨hP, 0, if a < minc then minc else a, le_rfl, ?_⟩
  refine checkReturns_now (wi := wi) (bm := bm) (minc := minc) (seen := seen) rfl fun j => ?_
  simp only [checkLine, checkAck, alone_lat hp, alone_maxAcked, alone_updLat]
  rfl

/-- `next` with threads left in the word: `V3`. -/
theorem checkNext_thread {l : Label} {wi : U32} {bm minc : U64} {seen : Bool} {j : Nat} (hp : p < s.ports.length)
    (h : bm ≠ 0#64) :
    checkNext (s.alone p ⟨q.busyAt l st (x.checked wi bm minc seen x.okf), a, w⟩ j) =
      .goto .v3 [] (s.alone p ⟨q.busyAt l st (x.checked wi bm minc seen x.okf), a, w⟩ j) := by
  simp [checkNext, alone_lat hp, Latches.checked, h]

/-- `next` with nothing left in a word that is not the last. -/
theorem checkNext_word {l : Label} {wi : U32} {minc : U64} {seen : Bool} {j : Nat} (hp : p < s.ports.length)
    (h : (wi + 1#32).toNat ≠ nwords s.cfg) :
    checkNext (s.alone p ⟨q.busyAt l st (x.checked wi 0#64 minc seen x.okf), a, w⟩ j) =
      .goto .v2 [] (s.alone p ⟨q.busyAt l st (x.checked (wi + 1#32) 0#64 minc seen x.okf), a, w⟩ j) := by
  simp only [checkNext, alone_lat hp, alone_updLat, Latches.checked, busyAt_lat, alone_cfg, if_neg h, if_true]

/-- `next` at the end: `V4` if a thread has been seen, else success. -/
theorem checkNext_end {l : Label} {wi : U32} {minc : U64} {seen : Bool} {j : Nat} (hp : p < s.ports.length)
    (h : (wi + 1#32).toNat = nwords s.cfg) :
    checkNext (s.alone p ⟨q.busyAt l st (x.checked wi 0#64 minc seen x.okf), a, w⟩ j) =
      if seen = true then .goto .v4 [] (s.alone p ⟨q.busyAt l st (x.checked (wi + 1#32) 0#64 minc seen x.okf), a, w⟩ j)
      else .ret (s.alone p ⟨q.busyAt l st (x.checked (wi + 1#32) 0#64 minc seen true), a, w⟩ j) := by
  simp only [checkNext, alone_lat hp, alone_updLat, Latches.checked, busyAt_lat, alone_cfg, if_pos h, if_true, checkFin]

/-- Line `V2`: the word is loaded. -/
theorem checkLine_v2 {wi : U32} {bm minc : U64} {seen : Bool} {j : Nat} :
    checkLine .v2 (s.alone p ⟨q.busyAt .v2 st (x.checked wi bm minc seen x.okf), a, w⟩ j) =
      checkNext (s.alone p
        ⟨q.busyAt .v2 st (x.checked wi (s.bitmap.getD wi.toNat 0#64) minc seen x.okf), a, w⟩ j) := by
  simp only [checkLine, checkWord, alone_updLat, alone_bitmap]
  rfl

/-- Line `V3`: a thread that lags ends the check or, when waiting, has the word loaded again. -/
theorem checkLine_v3 {wi : U32} {bm minc : U64} {seen : Bool} {j : Nat} (hp : p < s.ports.length) {c : U64}
    (hc : s.cntOf (64 * wi.toNat + lowestSet bm) = c) :
    checkLine .v3 (s.alone p ⟨q.busyAt .v3 st (x.checked wi bm minc seen x.okf), a, w⟩ j) =
      if c < x.t then
        if x.wt = true then .goto .v2 [] (s.alone p ⟨q.busyAt .v3 st (x.checked wi bm minc seen x.okf), a, w⟩ j)
        else .ret (s.alone p ⟨q.busyAt .v3 st (x.checked wi bm minc seen false), a, w⟩ j)
      else checkNext (s.alone p ⟨q.busyAt .v3 st (x.checked wi (bm &&& ~~~(bit64 (lowestSet bm)))
        (if !seen || decide (c < minc) then c else minc) true x.okf), a, w⟩ j) := by
  simp only [checkLine, checkThread, alone_lat hp, alone_cntOf, alone_updLat, busyAt_lat, checked_scanned, checked_t,
    checked_wt, hc]
  rfl

/-- A check of the command `i` on port `p` that was accepted with the latches `x`, in a state whose registry is in order. -/
structure LoneCheck (s : State) (p : Nat) (i : Instr) (st : List Seq) (k : State → Flow) (x : Latches) : Prop where
  exists_port : p < s.ports.length
  runs : RunsCheck i st k
  command : decodeWord x.cmd = .ok i
  words : s.bitmap.length = nwords s.cfg
  ids : ∀ i ∈ List.range (64 * s.bitmap.length), s.regd i = true → i < s.cfg.maxThreads.toNat

/-- The line `l` with the latches `z` comes to `next` of rule R202 with the word `wi` and its working copy `bm`. -/
def ComesToNext (s : State) (p : Nat) (q : Port) (a : U64) (w : SideRegs) (st : List Seq) (x : Latches) (l : Label)
    (z : Latches) (wi : U32) (bm minc : U64) (seen : Bool) : Prop :=
  z.cmd = x.cmd ∧ ∀ j, checkLine l (s.alone p ⟨q.busyAt l st z, a, w⟩ j) =
    checkNext (s.alone p ⟨q.busyAt l st (x.checked wi bm minc seen x.okf), a, w⟩ j)

theorem comesToNext_v2 (wi : U32) (bm minc : U64) (seen : Bool) :
    ComesToNext s p q a w st x .v2 (x.checked wi bm minc seen x.okf) wi (s.bitmap.getD wi.toNat 0#64) minc seen :=
  ⟨rfl, fun _ => checkLine_v2⟩

theorem toNat_succ_of_lt_nwords {cfg : Params} {wi : U32} (h : wi.toNat < nwords cfg) :
    (wi + 1#32).toNat = wi.toNat + 1 := by
  have hmax := cfg.maxThreads.isLt
  rw [nwords] at h
  rw [BitVec.toNat_add, BitVec.toNat_ofNat]
  omega

section
variable {l : Label} {z : Latches} {wi : U32} {bm minc : U64} {seen : Bool}

/-- The last word is done: the check succeeds, at once or through `V4`. -/
theorem LoneCheck.ends {P : Prop} (h : LoneCheck s p i st k x) (hP : P) (hlast : (wi + 1#32).toNat = nwords s.cfg)
    (hnext : ComesToNext s p q a w st x l z wi 0#64 minc seen) : CheckDecides s p q a w st x l z 1 P := by
  obtain ⟨hz, hline⟩ := hnext
  simp only [checkNext_end h.exists_port hlast] at hline
  cases seen with
  | false => exact .inl ⟨hP, 0, a, Nat.zero_le _, checkReturns_now hz fun j => by rw [hline j, if_neg (by simp)]⟩
  | true =>
    have hstep := leads_checkLine h.exists_port h.runs h.command hz fun j => by rw [hline j, if_pos rfl]
    exact (checkDecides_ack h.exists_port hP).before hstep

/-- `V3` for a thread that has reported the token goes on to `next` with the thread's bit cleared. -/
theorem LoneCheck.passes (h : LoneCheck s p i st k x) (hpass : x.t ≤ s.cntOf (64 * wi.toNat + lowestSet bm)) :
    ∃ minc', ComesToNext s p q a w st x .v3 (x.checked wi bm minc seen x.okf) wi
      (bm &&& ~~~(bit64 (lowestSet bm))) minc' true :=
  ⟨_, rfl, fun _ => (checkLine_v3 h.exists_port rfl).trans (if_neg (BitVec.not_lt.mpr hpass))⟩

/-- `V3` for a thread that lags, in a check that does not wait, fails the check. -/
theorem LoneCheck.lags {P : Prop} (h : LoneCheck s p i st k x) (hP : ¬P) (hwt : x.wt ≠ true)
    (hlag : ¬ x.t ≤ s.cntOf (64 * wi.toNat + lowestSet bm)) :
    CheckDecides s p q a w st x .v3 (x.checked wi bm minc seen x.okf) 1 P := by
  refine .inr ⟨hP, 0, Nat.one_pos, checkReturns_now (wi := wi) (bm := bm) (minc := minc) (seen := seen) rfl fun j => ?_⟩
  rw [checkLine_v3 h.exists_port rfl, if_pos (BitVec.not_le.mp hlag), if_neg hwt]

end

/-- `next` of a scan that stands in word `wi` with the threads from bit `r` on left in it decides whether every registered
thread from there on has reported the token. -/
theorem LoneCheck.next_decides (h : LoneCheck s p i st k x) :
    ∀ (n : Nat) {wi : U32} {r : Nat} {bm minc : U64} {seen : Bool} {l : Label} {z : Latches},
      scanSteps (nwords s.cfg) s.cfg.maxThreads.toNat wi.toNat r = n → wi.toNat < nwords s.cfg → r ≤ 64 →
      s.LeftOfWord wi.toNat r bm → (x.wt = true → s.CompleteFrom x.t (64 * wi.toNat + r)) →
      ComesToNext s p q a w st x l z wi bm minc seen →
      CheckDecides s p q a w st x l z n (s.CompleteFrom x.t (64 * wi.toNat + r)) := by
  intro n
  induction n using Nat.strong_induction_on with
  | _ n ih =>
  intro wi r bm minc seen l z hn hwi hr hleft hwait hnext
  have hwords := h.words
  have hsucc := toNat_succ_of_lt_nwords hwi
  simp only [scanSteps] at hn
  by_cases h0 : bm = 0#64
  · subst h0
    have hskip := hleft.skip (tok := x.t) hr
    by_cases hlast : (wi + 1#32).toNat = nwords s.cfg
    · exact (h.ends (hskip.mpr (completeFrom_end (by omega))) hlast hnext).mono (by omega)
    · obtain ⟨hz, hline⟩ := hnext
      simp only [checkNext_word h.exists_port hlast] at hline
      have hload := ih _ (by simp only [scanSteps]; omega) rfl (by omega) (Nat.zero_le _) (leftOfWord_load s _)
        (fun hwt => by rw [hsucc]; exact hskip.mp (hwait hwt)) (comesToNext_v2 (wi + 1#32) 0#64 minc seen)
      rw [hsucc] at hload
      refine ((hload.before (leads_checkLine h.exists_port h.runs h.command hz hline)).mono ?_).congr hskip.symm
      simp only [scanSteps]
      omega
  · obtain ⟨hz, hline⟩ := hnext
    simp only [checkNext_thread h.exists_port h0] at hline
    have hstep := leads_checkLine h.exists_port h.runs h.command hz hline
    obtain ⟨hlow, hlt, hthread, hskipped, hleft'⟩ := hleft.lowest h0
    have hid : 64 * wi.toNat + lowestSet bm < 64 * s.bitmap.length := by omega
    have hidmax := h.ids _ (List.mem_range.mpr hid) hthread
    have hsplit : s.CompleteFrom x.t (64 * wi.toNat + r) ↔ x.t ≤ s.cntOf (64 * wi.toNat + lowestSet bm) ∧
        s.CompleteFrom x.t (64 * wi.toNat + (lowestSet bm + 1)) :=
      (completeFrom_skip (by omega) fun i hi hi' _ => hskipped i hi hi').trans (completeFrom_succ hid hthread)
    by_cases hpass : x.t ≤ s.cntOf (64 * wi.toNat + lowestSet bm)
    · obtain ⟨minc', hnext'⟩ := h.passes hpass
      have hrest := ih _ (by simp only [scanSteps]; omega) rfl hwi hlt hleft'
        (fun hwt => (hsplit.mp (hwait hwt)).2) hnext'
      refine ((hrest.before hstep).mono ?_).congr (by rw [hsplit, and_iff_right hpass])
      simp only [scanSteps]
      omega
    · have hfail : ¬ s.CompleteFrom x.t (64 * wi.toNat + r) := fun hP => hpass (hsplit.mp hP).1
      exact ((h.lags hfail (fun hwt => hfail (hwait hwt)) hpass).before hstep).mono (by omega)

/-- The whole of `CHECKSEQ`: a token known complete is answered at once, else the scan of all threads decides. -/
theorem LoneCheck.decides (h : LoneCheck s p i st k x) (hwords : 0 < nwords s.cfg)
    (hwait : x.wt = true → x.t ≤ a ∨ s.Complete x.t) :
    CheckDecides s p q a w st x .v1 x (nwords s.cfg + s.cfg.maxThreads.toNat + 1) (x.t ≤ a ∨ s.Complete x.t) := by
  by_cases hfast : x.t ≤ a
  · refine .inl ⟨.inl hfast, 0, a, Nat.zero_le _, ?_⟩
    refine checkReturns_now (wi := x.wi) (bm := x.bm) (minc := x.minc) (seen := x.seen) rfl fun j => ?_
    simp only [checkLine, checkFast, alone_lat h.exists_port, busyAt_lat, alone_acked, if_pos hfast, alone_updLat]
    rfl
  · have hv1 : ∀ j, checkLine .v1 (s.alone p ⟨q.busyAt .v1 st x, a, w⟩ j) =
        .goto .v2 [] (s.alone p ⟨q.busyAt .v1 st (x.checked 0#32 x.bm x.minc false x.okf), a, w⟩ j) := fun j => by
      simp only [checkLine, checkFast, alone_lat h.exists_port, busyAt_lat, alone_acked, if_neg hfast, alone_updLat]
      rfl
    rw [complete_iff_completeFrom] at hwait ⊢
    have hscan := h.next_decides (a := a) (w := w) (q := q) (wi := 0#32) (r := 0) _ rfl hwords (Nat.zero_le _)
      (leftOfWord_load s _) (fun hwt => (hwait hwt).resolve_left hfast) (comesToNext_v2 0#32 x.bm x.minc false)
    have hstep := leads_checkLine h.exists_port h.runs h.command rfl hv1
    refine ((hscan.before hstep).mono ?_).congr (or_iff_right hfast).symm
    simp only [scanSteps, BitVec.toNat_ofNat]
    omega

end

end Sys2Proof.Machine
end

section
/-! PROOFS. `CHECK` alone, and a reclaim pass alone whose oldest entry is not complete (spec/42 rules R196, R202, R207,
spec/43 rules R222, R225 to R227), from acceptance to the response. -/

namespace Sys2Proof.Machine

section
variable {s : State} {p : Nat} {q : Port} {c : Conf} {a : U64} {w : SideRegs} {x : Latches} {i : Instr}

/-- What a run alone leaves as it is. -/
theorem alone_frame (hp : p < s.ports.length) :
    OnlyOwnPort { s with cur := p, sched := [] } (s.alone p c 0) ∧ (s.alone p c 0).ports[p]? = some c.port := by
  refine ⟨⟨rfl, rfl, rfl, rfl, by simp [State.alone], fun n hn => ?_⟩, by simp [State.alone, hp]⟩
  simp [State.alone, List.getElem?_set_ne (Ne.symm hn)]

/-! ### `CHECK` -/

/-- A check of `CHECK` that returns `b` answers it in the same step. -/
theorem CheckReturns.answers {tok : U64} {wait b : Bool} {k : Nat} {a' : U64} (hp : p < s.ports.length)
    (hx : decodeWord x.cmd = .ok (.check tok wait)) (h : CheckReturns s p q a w [.checkseq] x .v1 x k a' b) :
    ∃ y, Leads s p (k + 1) ⟨q.busyAt .v1 [.checkseq] x, a, w⟩ ⟨q.replied .ok 0#32 (boolValue b) y, a', w⟩ := by
  obtain ⟨l', z', wi, bm, minc, seen, hleads, hz, hline⟩ := h
  refine ⟨x.checked wi bm minc seen b, hleads.trans (.respond hp (by rwa [hz]) fun j => ?_)⟩
  rw [(runsCheck_own (i := .check tok wait) rfl).ret (hline j), checkDone, alone_lat hp]
  rfl

theorem nwords_pos {cfg : Params} (h : qValid cfg = true) : 0 < nwords cfg := by
  have := (qValid_iff cfg).mp h
  rw [nwords]
  omega

theorem State.Complete.mono {t t' : U64} (h : s.Complete t') (ht : t ≤ t') : s.Complete t :=
  fun i hi hr => BitVec.le_trans ht (h i hi hr)

/-- The whole run of `CHECK`. -/
theorem runAlone_check {m : Message} {rest : List Message} {tok : U64} {wait : Bool} (hs : s.Sound) (hr : s.RegistryOk)
    (hm : decodeMessage s.cfg m = .ok (.check tok wait)) (hok : s.qOk = true) (hq : s.ports[p]? = some q)
    (hidle : q.phase = .idle) (hch : q.cmdch = m :: rest) (hwait : wait = true → tok ≤ s.acked ∨ s.Complete tok) :
    ∃ (k : Nat) (y : Latches) (a' : U64) (b : Bool), k ≤ 1 + 2 + nwords s.cfg + s.cfg.maxThreads.toNat ∧
      (b = true ↔ tok ≤ s.acked ∨ s.Complete tok) ∧
      runAlone p k s = .next
        (s.alone p ⟨({ q with cmdch := rest } : Port).replied .ok 0#32 (boolValue b) y, a', s.defer.cons⟩ 0) := by
  have hp : p < s.ports.length := (List.getElem?_eq_some_iff.mp hq).1
  obtain ⟨-, hqok, -⟩ := sound_status_bits (sound_statusBits hs)
  obtain ⟨-, hlen, -⟩ := hs
  have hx : decodeWord (enteredLat (.check tok wait) m).cmd = .ok (.check tok wait) := (decodeMessage_ok hm).1
  have hlone : LoneCheck s p (.check tok wait) [.checkseq] checkDone (enteredLat (.check tok wait) m) :=
    ⟨hp, runsCheck_own rfl, hx, hlen, hr.2⟩
  obtain ⟨k, a', b, hk, hb, h⟩ := (hlone.decides (nwords_pos (hqok ▸ hok)) hwait).returns
  obtain ⟨y, hy⟩ := h.answers hp hx
  exact ⟨k + 1 + 1, y, a', b, by omega, hb, runAlone_of_leads hq hidle hch hm hok rfl rfl hy⟩

/-! ### The lines of a blocked reclaim pass -/

/-- The latches at the head of a reclaim pass that has not reached its limit (spec/43 rule R222). -/
def Latches.passStart (x : Latches) (lim : Limit) : Latches :=
  { x with lim := lim, freed := 0#32, n := 1#32, beh := .exact }

/-- The call of `RECLAIMSEQ` with a limit above 0. -/
theorem reclaimCall_alone {l : Label} {st : List Seq} {k : State → Flow} {lim : Limit} {j : Nat}
    (hp : p < s.ports.length) (hlim : lim ≠ .num 0#32) :
    (reclaimCall lim (s.alone p ⟨q.busyAt l st x, a, w⟩ j)).within .reclaimseq k =
      .goto .h1 [.reclaimseq, .reserve] (s.alone p ⟨q.busyAt l st (x.passStart lim), a, w⟩ j) := by
  simp only [reclaimCall, reclaimLoop, alone_updLat, alone_lat hp, busyAt_lat, if_neg hlim, reserveCall,
    Flow.within_goto]
  rfl

/-- The consumer side of ring 1 with its oldest entry, at `h`, reserved. -/
def oldestTaken (h : U32) : SideRegs := { idleSide .hts h 0#32 with a := pack (h + 1#32) h }

/-- The latches when the oldest entry `e`, at `h`, has been reserved and read (lines `H1` to `X1`). -/
def Latches.oldest (x : Latches) (h opt : U32) (e : Element) : Latches :=
  { x with oh := h, opt := opt, k := 1#32, ent := e, t := entryToken e, wt := false }

theorem one_le_sub {opt h : U32} (hne : opt ≠ h) : 1#32 ≤ opt - h := by
  have h0 : opt - h ≠ 0#32 := fun h0 => hne (by bv_omega)
  bv_omega

variable {k : State → Flow} {h : U32}

/-- Lines `H1`, `H2`, `H3`, `X1` of a pass alone over a queue that is not empty (spec/40 rule R127, spec/43 rule R222). -/
theorem leads_oldest {e : Element} (hp : p < s.ports.length) (hk : afterReclaimOf i = some k)
    (hx : decodeWord x.cmd = .ok i) (hn : x.n = 1#32) (hbeh : x.beh = .exact) (hcap : cap s.cfg .defer ≠ 0#32)
    (hne : s.tailview .defer .prod ≠ h)
    (he : s.defer.mem.readBytes (addrOf s.cfg .defer h) (esize s.cfg .defer) = some e) :
    Leads s p 4 ⟨q.busyAt .h1 [.reclaimseq, .reserve] x, a, idleSide .hts h 0#32⟩
      ⟨q.busyAt .v1 [.reclaimseq, .checkseq] (x.oldest h (s.tailview .defer .prod) e), a, oldestTaken h⟩ := by
  have hsome : clamp (s.tailview .defer .prod - h) 1#32 .exact = 1#32 := if_pos (one_le_sub hne)
  have hread : s.memRead .defer (addrOf s.cfg .defer h) (esize s.cfg .defer) = .ok e := by
    rw [State.memRead, if_pos (addrOf_within s.cfg .defer h hcap)]
    simp only [State.ring, he]
  have h1 : Leads s p 1 ⟨q.busyAt .h1 [.reclaimseq, .reserve] x, a, idleSide .hts h 0#32⟩
      ⟨q.busyAt .h2 [.reclaimseq, .reserve] (x.loaded .hts h 0#32), a, idleSide .hts h 0#32⟩ := by
    refine .goto hp hx fun j => ?_
    simp [lineFlow_reclaim hk, reclaimLine, reserveLine, reserveLoadHts, idleSide, Latches.loaded]
  have h2 : Leads s p 1 ⟨q.busyAt .h2 [.reclaimseq, .reserve] (x.loaded .hts h 0#32), a, idleSide .hts h 0#32⟩
      ⟨q.busyAt .h3 [.reclaimseq, .reserve] ((x.loaded .hts h 0#32).found (s.tailview .defer .prod) 1#32), a,
        idleSide .hts h 0#32⟩ := by
    refine .goto hp hx fun j => ?_
    simp [lineFlow_reclaim hk, reclaimLine, reserveLine, reserveAvail, State.loadAvail, Side.opp, avail, hp, hsome,
      Latches.loaded, Latches.found, hn, hbeh]
  have h3 : Leads s p 1 ⟨q.busyAt .h3 [.reclaimseq, .reserve]
        ((x.loaded .hts h 0#32).found (s.tailview .defer .prod) 1#32), a, idleSide .hts h 0#32⟩
      ⟨q.busyAt .x1 [.reclaimseq] ((x.loaded .hts h 0#32).found (s.tailview .defer .prod) 1#32), a,
        oldestTaken h⟩ := by
    refine .goto hp hx fun j => ?_
    simp [lineFlow_reclaim hk, reclaimLine, reserveLine, reserveCasHts, idleSide, reclaimReserved, hp, oldestTaken,
      Latches.loaded, Latches.found]
  have h4 : Leads s p 1 ⟨q.busyAt .x1 [.reclaimseq]
        ((x.loaded .hts h 0#32).found (s.tailview .defer .prod) 1#32), a, oldestTaken h⟩
      ⟨q.busyAt .v1 [.reclaimseq, .checkseq] (x.oldest h (s.tailview .defer .prod) e), a, oldestTaken h⟩ := by
    refine .goto hp hx fun j => ?_
    simp [lineFlow_reclaim hk, reclaimLine, reclaimRead, hp, Latches.loaded, Latches.found, hread, checkCall]
    rfl
  exact ((h1.trans h2).trans h3).trans h4

/-- A check of a pass that fails: the pass goes to `H5`. -/
theorem CheckReturns.cancels {l : Label} {z : Latches} {n : Nat} {a' : U64} (hp : p < s.ports.length)
    (hk : afterReclaimOf i = some k) (hx : decodeWord x.cmd = .ok i)
    (hret : CheckReturns s p q a w [.reclaimseq, .checkseq] x l z n a' false) :
    ∃ wi bm minc seen, Leads s p (n + 1) ⟨q.busyAt l [.reclaimseq, .checkseq] z, a, w⟩
      ⟨q.busyAt .h5 [.reclaimseq, .cancel] (x.checked wi bm minc seen false), a', w⟩ := by
  obtain ⟨l', z', wi, bm, minc, seen, hleads, hz, hline⟩ := hret
  refine ⟨wi, bm, minc, seen, hleads.trans (.goto (i := i) hp (by rwa [hz]) fun j => ?_)⟩
  rw [(runsCheck_reclaim hk).ret (hline j), reclaimChecked, alone_lat hp]
  rfl

/-- `i` is a command whose own first line starts a reclaim pass with the limit `lim`, and whose response to a blocked pass
has the status `st` (spec/43 rules R225, R226). -/
structure PassCommand (i : Instr) (first : Label) (lim : Limit) (st : Status) (k : State → Flow) : Prop where
  unit : unitOf i = .deferQueue
  operands : ∀ s, operandErrorOf s i = false
  count : zeroCountOf i = false
  first_line : ∀ cfg, firstLine cfg i = (first, [])
  begins : ∀ s, s.dqAlive = true → lineFlow i first [] s = (reclaimCall lim s).within .reclaimseq k
  limit : lim ≠ .num 0#32
  after : afterReclaimOf i = some k
  blocked : ∀ u : State, u.lat.why = .blocked → k u = .ended (u.respond st u.lat.freed 0#64)

theorem passCommand_reclaim {n : U32} (hn : n ≠ 0#32) :
    PassCommand (.dqReclaim n) .r1 (.num n) .ok dqReclaimDone where
  unit := rfl
  operands _ := rfl
  count := rfl
  first_line _ := rfl
  begins s hs := by simp [lineFlow, ownLine, onlyAt, ifAlive, hs]
  limit := by simpa using hn
  after := rfl
  blocked _ _ := rfl

theorem passCommand_delete : PassCommand .dqDelete .z0 .inf .ePending dqDeletePassed where
  unit := rfl
  operands _ := rfl
  count := rfl
  first_line _ := rfl
  begins s hs := by simp [lineFlow, ownLine, ifAlive, hs]
  limit := nofun
  after := rfl
  blocked u hu := by rw [dqDeletePassed, if_pos hu]

/-- Line `H5` of a pass alone: the reservation is given back and the command answers. -/
theorem leads_cancel {first : Label} {lim : Limit} {st : Status} (hp : p < s.ports.length)
    (hi : PassCommand i first lim st k) (hx : decodeWord x.cmd = .ok i) (hoh : x.oh = h) :
    Leads s p 1 ⟨q.busyAt .h5 [.reclaimseq, .cancel] x, a, oldestTaken h⟩
      ⟨q.replied st x.freed 0#64 { x with why := .blocked }, a, idleSide .hts h 0#32⟩ := by
  refine .respond (l := .h5) (st := [.reclaimseq, .cancel]) hp hx fun j => ?_
  simp [lineFlow_reclaim hi.after, reclaimLine, cancelLine, reclaimBlocked, hp, hoh]
  rw [hi.blocked _ (by rw [alone_lat hp]; rfl), alone_lat hp]
  rfl

/-- The whole run of a command whose reclaim pass is blocked by its oldest entry. -/
theorem runAlone_blocked {m : Message} {rest : List Message} {first : Label} {lim : Limit} {st : Status} {e : Element}
    (hi : PassCommand i first lim st k) (hs : s.Sound) (hr : s.RegistryOk) (hacked : s.Complete s.acked)
    (hm : decodeMessage s.cfg m = .ok i) (hok : s.dqOk = true) (halive : s.dqAlive = true)
    (hq : s.ports[p]? = some q) (hidle : q.phase = .idle) (hch : q.cmdch = m :: rest)
    (hside : s.defer.cons = idleSide .hts h 0#32) (hne : s.tailview .defer .prod ≠ h)
    (he : s.defer.mem.readBytes (addrOf s.cfg .defer h) (esize s.cfg .defer) = some e)
    (hblock : ¬ s.Complete (entryToken e)) :
    ∃ (n : Nat) (y : Latches), n ≤ 8 + nwords s.cfg + s.cfg.maxThreads.toNat ∧
      runAlone p n s = .next
        (s.alone p ⟨({ q with cmdch := rest } : Port).replied st 0#32 0#64 y, s.acked, s.defer.cons⟩ 0) := by
  have hp : p < s.ports.length := (List.getElem?_eq_some_iff.mp hq).1
  have hx : decodeWord (enteredLat i m).cmd = .ok i := by
    rw [(enteredLat_operands i m).1]
    exact (decodeMessage_ok hm).1
  obtain ⟨-, -, hdq⟩ := sound_status_bits (sound_statusBits hs)
  obtain ⟨-, hlen, -⟩ := hs
  have hvalid : dqValid s.cfg = true := hdq ▸ hok
  have hq' : qValid s.cfg = true := (qValid_iff _).mpr ((dqValid_iff _).mp hvalid).1
  let q1 : Port := { q with cmdch := rest }
  let y := (enteredLat i m).passStart lim
  let z := y.oldest h (s.tailview .defer .prod) e
  have hbegin : Leads s p 1 ⟨q1.busyAt first [] (enteredLat i m), s.acked, s.defer.cons⟩
      ⟨q1.busyAt .h1 [.reclaimseq, .reserve] y, s.acked, s.defer.cons⟩ :=
    .goto hp hx fun j => by rw [hi.begins _ (alone_dqAlive.trans halive), reclaimCall_alone hp hi.limit]
  have htake := leads_oldest (q := q1) (a := s.acked) (x := y) hp hi.after hx rfl rfl
    (ne_zero_of_ispow2 (ispow2_cap_defer hvalid)) hne he
  have hnot : ¬(z.t ≤ s.acked ∨ s.Complete z.t) := fun hor => hblock (hor.elim hacked.mono id)
  have hlone : LoneCheck s p i [.reclaimseq, .checkseq] (fun u => (reclaimChecked u).within .reclaimseq k) z :=
    ⟨hp, runsCheck_reclaim hi.after, hx, hlen, hr.2⟩
  rcases hlone.decides (q := q1) (a := s.acked) (w := oldestTaken h) (nwords_pos hq') nofun with
    ⟨hP, -⟩ | ⟨-, n, hn, hret⟩
  · exact absurd hP hnot
  · obtain ⟨wi, bm, minc, seen, hcheck⟩ := CheckReturns.cancels (x := z) hp hi.after hx hret
    have hcancel := leads_cancel (q := q1) (a := s.acked) (x := z.checked wi bm minc seen false) (h := h) hp hi hx rfl
    have hpass := (htake.trans hcheck).trans hcancel
    rw [hside] at hbegin ⊢
    refine ⟨1 + (4 + (n + 1) + 1) + 1, { z.checked wi bm minc seen false with why := .blocked }, by omega,
      runAlone_of_leads hq hidle hch hm (by rw [hi.unit]; exact hok) (hi.operands s) hi.count ?_⟩
    rw [hi.first_line, hside]
    exact hbegin.trans hpass

end

/-- Settles O31: the run of `CHECK` and of the blocked pass, step by step. -/
theorem checkAloneDecides : Obligations.CheckAloneDecides := by
  refine ⟨fun s p q m rest tok wait hs hr hm hok hq hidle hch hwait => ?_,
    fun s p q m rest i st h e hi hs hr hacked hm hok halive hq hidle hch hside hne he hblock => ?_⟩
  · have hp : p < s.ports.length := (List.getElem?_eq_some_iff.mp hq).1
    obtain ⟨k, y, a', b, hk, hb, hrun⟩ := runAlone_check hs hr hm hok hq hidle hch hwait
    obtain ⟨hown, hq'⟩ := alone_frame (s := s)
      (c := ⟨({ q with cmdch := rest } : Port).replied .ok 0#32 (boolValue b) y, a', s.defer.cons⟩) hp
    refine ⟨k, _, _, boolValue b, hk, hrun, hown, ⟨rfl, rfl⟩, ⟨rfl, rfl, rfl, rfl⟩, ⟨rfl, rfl⟩, rfl, rfl, hq', rfl, rfl,
      rfl, ?_, fun hacked => ?_⟩
    · simp only [boolValue, hb]
    · have hfast : (tok ≤ s.acked ∨ s.Complete tok) ↔ s.Complete tok := or_iff_right_of_imp hacked.mono
      simp only [boolValue, hb, hfast]
  · have hp : p < s.ports.length := (List.getElem?_eq_some_iff.mp hq).1
    obtain ⟨first, lim, k, hpass⟩ : ∃ first lim k, PassCommand i first lim st k := by
      rcases hi with ⟨n, rfl, hn, rfl⟩ | ⟨rfl, rfl⟩
      · exact ⟨_, _, _, passCommand_reclaim hn⟩
      · exact ⟨_, _, _, passCommand_delete⟩
    obtain ⟨n, y, hn, hrun⟩ := runAlone_blocked hpass hs hr hacked hm hok halive hq hidle hch hside hne he hblock
    obtain ⟨hown, hq'⟩ := alone_frame (s := s)
      (c := ⟨({ q with cmdch := rest } : Port).replied st 0#32 0#64 y, s.acked, s.defer.cons⟩) hp
    exact ⟨n, _, _, hn, hrun, hown, ⟨⟨rfl, rfl⟩, ⟨rfl, rfl⟩, ⟨rfl, rfl, rfl, rfl⟩, ⟨rfl, rfl⟩, rfl⟩, hq', rfl, rfl, rfl⟩

end Sys2Proof.Machine
end

section
/-! PROOFS. `RESERVE` under the four disciplines (spec/40 rules R125 to R128): how a line of `RESERVE` leaves it, in the words
of the statements, and from it each labelled line of every command that runs a `RINGOP`. -/

namespace Sys2Proof.Machine

section
variable {i : Instr} {r : RingId} {sd : Side} {s u : State} {x : Latches} {l l' : Label}

/-! ### How a line of a `RINGOP` ends -/

/-- A line that goes on within the `RINGOP`. -/
theorem ringop_goes {st st' : List Seq} (hi : ringopUse i = some (r, sd)) (hat : s.atLine l (.ringop :: st))
    (hu : Updated s u x) (h : ringopLine r sd l st s = .goto l' st' u) :
    ∃ t, exec i s = .next t ∧ OnlyOwnPort s t ∧ SameShared u t ∧ t.lat = x ∧ Continues s t l' (.ringop :: st') := by
  rw [exec_ringop_line hi hat, h]
  exact hu.goto l' (.ringop :: st')

/-- A line that ends the `RINGOP`. -/
theorem ringop_returns {st : List Seq} (hi : ringopUse i = some (r, sd)) (hat : s.atLine l (.ringop :: st))
    (hu : Updated s u x) (h : ringopLine r sd l st s = .ret u) :
    ∃ t, exec i s = .next t ∧ OnlyOwnPort s t ∧ SameShared u t ∧ AfterRingop i s t x := by
  rw [exec_ringop_line hi hat, h]
  exact afterRingopOf_outcome hi hu

/-- A line that loads into the latches. -/
theorem ringop_loads {st st' : List Seq} {f : Latches → Latches} (hi : ringopUse i = some (r, sd))
    (hat : s.atLine l (.ringop :: st)) (h : ringopLine r sd l st s = .goto l' st' (s.updLat f)) :
    ∃ t, exec i s = .next t ∧ OnlyOwnPort s t ∧ SameShared s t ∧ t.lat = f s.lat ∧ Continues s t l' (.ringop :: st') :=
  ringop_goes (u := s.updLat f) hi hat ((Updated.refl hat.1).updLat f) h

/-- A line that only tests shared state: it goes to one label or to the other. -/
theorem ringop_branches {c : Prop} [Decidable c] {l₁ l₂ : Label} {st st₁ st₂ : List Seq}
    (hi : ringopUse i = some (r, sd)) (hat : s.atLine l (.ringop :: st))
    (h : ringopLine r sd l st s = if c then .goto l₁ st₁ s else .goto l₂ st₂ s) :
    ∃ t, exec i s = .next t ∧ OnlyOwnPort s t ∧ SameShared s t ∧ t.lat = s.lat ∧
      if c then Continues s t l₁ (.ringop :: st₁) else Continues s t l₂ (.ringop :: st₂) := by
  by_cases hc : c
  · simp only [if_pos hc] at h ⊢
    exact ringop_goes hi hat (Updated.refl hat.1) h
  · simp only [if_neg hc] at h ⊢
    exact ringop_goes hi hat (Updated.refl hat.1) h

/-! ### How a line of `RESERVE` ends -/

/-- A line that goes on within `RESERVE`. -/
theorem reserve_goes (hi : ringopUse i = some (r, sd)) (hat : s.atLine l [.ringop, .reserve]) (hu : Updated s u x)
    (h : reserveLine r sd l s = .goto l' [] u) :
    ∃ t, exec i s = .next t ∧ OnlyOwnPort s t ∧ SameShared u t ∧ t.lat = x ∧ Continues s t l' [.ringop, .reserve] :=
  ringop_goes hi hat hu (by rw [ringopLine, h, Flow.within_goto])

/-- A line that returns with nothing reserved ends the `RINGOP`. -/
theorem reserve_finds_nothing (hi : ringopUse i = some (r, sd)) (hat : s.atLine l [.ringop, .reserve])
    (hu : Updated s u x) (h : reserveLine r sd l s = .ret u) (hk : x.k = 0#32) :
    ∃ t, exec i s = .next t ∧ OnlyOwnPort s t ∧ SameShared u t ∧ AfterRingop i s t x :=
  ringop_returns hi hat hu (by rw [ringopLine, h, Flow.within_ret, ringopReserved, hu.lat, if_pos hk])

/-- A line that returns with positions reserved goes on to `COPY`. -/
theorem reserve_takes (hi : ringopUse i = some (r, sd)) (hat : s.atLine l [.ringop, .reserve]) (hu : Updated s u x)
    (h : reserveLine r sd l s = .ret u) (hk : x.k ≠ 0#32) :
    ∃ t, exec i s = .next t ∧ OnlyOwnPort s t ∧ SameShared u t ∧ t.lat = x ∧ Continues s t .cp [.ringop, .copy] :=
  ringop_goes hi hat hu (by rw [ringopLine, h, Flow.within_ret, ringopReserved, hu.lat, if_neg hk])

/-! ### The two lines that the disciplines share -/

/-- The latches after the opposing tail has been loaded and `L.K` computed from it (spec/40 rules R121, R122). -/
def State.availLat (s : State) (r : RingId) (sd : Side) : Latches :=
  { s.lat with
    opt := s.tailview r sd.opp
    k := clamp (avail s.cfg r sd s.lat.oh (s.tailview r sd.opp)) s.lat.n s.lat.beh }

theorem Updated.loadAvail (g : s.granted) : Updated s (s.loadAvail r sd) (s.availLat r sd) :=
  (Updated.refl g).updLat fun x =>
    { x with opt := s.tailview r sd.opp, k := clamp (avail s.cfg r sd x.oh (s.tailview r sd.opp)) x.n x.beh }

/-- Lines `M2`, `H2`, `T3`: the operation ends when nothing is available. -/
theorem reserve_avail {next : Label} (hi : ringopUse i = some (r, sd)) (hat : s.atLine l [.ringop, .reserve])
    (h : reserveLine r sd l s = reserveAvail r sd next s) :
    ∃ t, exec i s = .next t ∧ OnlyOwnPort s t ∧ SameShared s t ∧
      if (s.availLat r sd).k = 0#32 then AfterRingop i s t (s.availLat r sd)
      else t.lat = s.availLat r sd ∧ Continues s t next [.ringop, .reserve] := by
  have hu : Updated s (s.loadAvail r sd) (s.availLat r sd) := .loadAvail hat.1
  simp only [reserveAvail, hu.lat] at h
  by_cases hk : (s.availLat r sd).k = 0#32
  · simp only [if_pos hk] at h ⊢
    exact reserve_finds_nothing (u := s.loadAvail r sd) hi hat hu h hk
  · simp only [if_neg hk] at h ⊢
    exact reserve_goes (u := s.loadAvail r sd) hi hat hu h

/-- Lines `M3`, `H3`, `T4`: a compare-and-swap of the head word takes the positions, or `RESERVE` starts again. -/
theorem reserve_cas {c : Prop} [Decidable c] {w : U64} {first : Label} (hi : ringopUse i = some (r, sd))
    (hat : s.atLine l [.ringop, .reserve]) (hk : s.lat.k ≠ 0#32)
    (h : reserveLine r sd l s = if c then .ret (s.setA r sd w) else .goto first [] s) :
    ∃ t, exec i s = .next t ∧ OnlyOwnPort s t ∧ SameOutsideRings s t ∧ OnlySide s t r sd ∧ t.lat = s.lat ∧
      if c then t.side r sd = { s.side r sd with a := w } ∧ Continues s t .cp [.ringop, .copy]
      else t.side r sd = s.side r sd ∧ Continues s t first [.ringop, .reserve] := by
  by_cases hc : c
  · simp only [if_pos hc] at h ⊢
    obtain ⟨t, hnext, hown, hshared, hlat, hcont⟩ := reserve_takes hi hat ((Updated.refl hat.1).setA r sd w) h hk
    obtain ⟨hout, honly, hside⟩ := onlySide_of_setSide hshared
    exact ⟨t, hnext, hown, hout, honly, hlat, hside, hcont⟩
  · simp only [if_neg hc] at h ⊢
    obtain ⟨t, hnext, hown, hshared, hlat, hcont⟩ := reserve_goes hi hat (Updated.refl hat.1) h
    obtain ⟨hout, honly, hside⟩ := onlySide_of_same r sd hshared
    exact ⟨t, hnext, hown, hout, honly, hlat, hside, hcont⟩

end

/-! ### The statements -/

/-- Settles O9: `M1` is a load, `M2` computes `L.K`, `M3` is a compare-and-swap of the low half of the head word. -/
theorem reserveMt : Obligations.ReserveMt := by
  intro i r sd s hi _
  refine ⟨fun hat => ?_, fun hat => ?_, fun hat hk => ?_⟩
  · exact ringop_loads (f := fun x => { x with oh := s.headw r sd }) hi hat rfl
  · exact reserve_avail hi hat rfl
  · exact reserve_cas hi hat hk rfl

/-- Settles O10: `S1` takes the side or raises `F_SINGLE`, `S2` may give it back, `S3` stores the head. -/
theorem reserveSt : Obligations.ReserveSt := by
  intro i r sd s hi _
  refine ⟨fun hat => ?_, fun hat => ?_, fun hat hk => ?_⟩
  · by_cases hv : (s.side r sd).sown.valid = true
    · simp only [if_pos hv]
      obtain ⟨t, hnext, hown, ⟨hrings, htokens, hthreads, hflags, hfree⟩, hlat, hans⟩ :=
        (Updated.refl hat.1).raise .single
      have hexec : exec i s = (raiseFault .single s).outcome := by
        rw [exec_ringop_line hi hat, ringopLine, reserveLine, reserveOwn, if_pos hv]
        rfl
      exact ⟨t, hexec.trans hnext, hown, hrings, htokens, hthreads, hfree, hflags.1, hflags.2, hans, hlat⟩
    · simp only [if_neg hv]
      have hline : reserveLine r sd .s1 s = .goto .s2 []
          ((s.setSown r sd { valid := true, owner := s.cur }).updLat fun x => { x with oh := s.headw r sd }) := by
        rw [reserveLine, reserveOwn, if_neg hv]
      obtain ⟨t, hnext, hown, hshared, hlat, hcont⟩ :=
        reserve_goes hi hat (((Updated.refl hat.1).setSown r sd _).updLat _) hline
      obtain ⟨hout, honly, hside⟩ := onlySide_of_setSide (s := s) hshared
      exact ⟨t, hnext, hown, hout, honly, hside, hlat, hcont⟩
  · have hu : Updated s (s.loadAvail r sd) (s.availLat r sd) := .loadAvail hat.1
    have hline : reserveLine r sd .s2 s = reserveAvailSt r sd s := rfl
    simp only [reserveAvailSt, hu.lat] at hline
    by_cases hk : (s.availLat r sd).k = 0#32
    · rw [if_pos hk] at hline
      obtain ⟨t, hnext, hown, hshared, hafter⟩ :=
        reserve_finds_nothing hi hat (hu.setSown r sd Owner.free) hline hk
      obtain ⟨hout, honly, hside⟩ := onlySide_of_setSide hshared
      exact ⟨t, hnext, hown, hout, honly, (if_pos hk).mpr ⟨hside, hafter⟩⟩
    · rw [if_neg hk] at hline
      obtain ⟨t, hnext, hown, hshared, hlat, hcont⟩ := reserve_goes hi hat hu hline
      obtain ⟨hout, honly, hside⟩ := onlySide_of_same r sd hshared
      exact ⟨t, hnext, hown, hout, honly, (if_neg hk).mpr ⟨hside, hlat, hcont⟩⟩
  · obtain ⟨t, hnext, hown, hshared, hlat, hcont⟩ := reserve_takes hi hat ((Updated.refl hat.1).storeHead r sd _) rfl hk
    obtain ⟨hout, honly, hside⟩ := onlySide_of_setSide hshared
    exact ⟨t, hnext, hown, hout, honly, hlat, hside, hcont⟩

/-- Settles O11: `H1` waits for a closed word, `H2` computes `L.K`, `H3` is a compare-and-swap of the whole word. -/
theorem reserveHts : Obligations.ReserveHts := by
  intro i r sd s hi _
  refine ⟨fun hat => ?_, fun hat => ?_, fun hat hk => ?_⟩
  · by_cases hw : loOf (s.side r sd).a ≠ hiOf (s.side r sd).a
    · simp only [if_pos hw]
      exact reserve_goes hi hat (Updated.refl hat.1) (if_pos hw)
    · simp only [if_neg hw]
      exact ringop_loads (f := fun x => { x with oh := loOf (s.side r sd).a }) hi hat
        (congrArg (Flow.within · .reserve ringopReserved) (if_neg hw))
  · exact reserve_avail hi hat rfl
  · exact reserve_cas hi hat hk rfl

/-- Settles O12: `T1` loads the packed head, `T2` waits for the distance, `T3` computes `L.K`, `T4` is a compare-and-swap of
the whole head word. -/
theorem reserveRts : Obligations.ReserveRts := by
  intro i r sd s hi _
  refine ⟨fun hat => ?_, fun hat => ?_, fun hat => ?_, fun hat hk => ?_⟩
  · exact ringop_loads (f := fun x => { x with oh := loOf (s.side r sd).a, oc := hiOf (s.side r sd).a }) hi hat rfl
  · exact ringop_branches hi hat (apply_ite (Flow.within · .reserve ringopReserved) _ _ _)
  · exact reserve_avail hi hat rfl
  · exact reserve_cas hi hat hk rfl

end Sys2Proof.Machine
end

section
/-! PROOFS. `PUBLISH` under the four disciplines (spec/40 rules R133 to R136): each labelled line of every command that runs a
`RINGOP`. -/

namespace Sys2Proof.Machine

section
variable {i : Instr} {r : RingId} {sd : Side} {s : State} {l : Label}

/-- A line that stores one side and ends the `RINGOP`. -/
theorem publish_stores {w : SideRegs} (hi : ringopUse i = some (r, sd)) (hat : s.atLine l [.ringop, .publish])
    (h : publishLine r sd l s = .ret (s.setSide r sd w)) :
    ∃ t, exec i s = .next t ∧ OnlyOwnPort s t ∧ SameOutsideRings s t ∧ OnlySide s t r sd ∧ t.side r sd = w ∧
      AfterRingop i s t s.lat := by
  obtain ⟨t, hnext, hown, hshared, hafter⟩ := ringop_returns hi hat ((Updated.refl hat.1).setSide r sd w)
    (by rw [ringopLine, h, Flow.within_ret])
  obtain ⟨hout, honly, hside⟩ := onlySide_of_setSide hshared
  exact ⟨t, hnext, hown, hout, honly, hside, hafter⟩

/-- The tail of a side other than `HTS` is the low half of its tail word (spec/10 rule R22). -/
theorem storeTail_of_ne_hts (v : U32) (h : syncOf s.cfg r sd ≠ .hts) :
    s.storeTail r sd v = s.setB r sd (pack v (hiOf (s.side r sd).b)) := by
  unfold State.storeTail
  split
  · exact absurd ‹_› h
  all_goals rfl

/-- Two stores to one side are one. -/
theorem setSide_setSide (w w' : SideRegs) : (s.setSide r sd w).setSide r sd w' = s.setSide r sd w' := by
  cases r <;> cases sd <;> rfl

/-- The word that `T7` stores (spec/40 rule R136). -/
theorem rtsNext_eq (otw hw : U64) :
    rtsNext otw hw = if hiOf otw + 1#32 = hiOf hw then pack (loOf hw) (hiOf hw)
      else pack (loOf otw) (hiOf otw + 1#32) := by
  unfold rtsNext
  split
  · rename_i hlast
    rw [hlast]
  · rfl

end

/-! ### The statements -/

/-- Settles O16: `M4` is a test of the tail, `M5` a store to the low half of the tail word. -/
theorem publishMt : Obligations.PublishMt := by
  intro i r sd s hi hd
  refine ⟨fun hat => ?_, fun hat => ?_⟩
  · exact ringop_branches hi hat (apply_ite (Flow.within · .publish Flow.ret) _ _ _)
  · exact publish_stores hi hat (congrArg Flow.ret (storeTail_of_ne_hts _ (by rw [hd]; nofun)))

/-- Settles O17: `S4` stores the tail and frees the side in one step, `H4` stores both halves of the word. -/
theorem publishStHts : Obligations.PublishStHts := by
  intro i r sd s hi
  refine ⟨fun hd hat => ?_, fun _ hat => ?_⟩
  · refine publish_stores hi hat (congrArg Flow.ret ?_)
    rw [storeTail_of_ne_hts _ (by rw [hd]; nofun), State.setSown, State.setB, setSide_setSide, State.setSide_side]
    rfl
  · exact publish_stores hi hat rfl

/-- Settles O18: `T5` and `T6` are loads, `T7` is a compare-and-swap of the tail word. -/
theorem publishRts : Obligations.PublishRts := by
  intro i r sd s hi _
  refine ⟨fun hat => ?_, fun hat => ?_, fun hat => ?_⟩
  · exact ringop_loads (f := fun x => { x with otw := (s.side r sd).b }) hi hat rfl
  · exact ringop_loads (f := fun x => { x with hw := (s.side r sd).a }) hi hat rfl
  · rw [← rtsNext_eq]
    by_cases hc : (s.side r sd).b = s.lat.otw
    · simp only [if_pos hc]
      exact publish_stores hi hat (if_pos hc)
    · simp only [if_neg hc]
      obtain ⟨t, hnext, hown, hshared, hlat, hcont⟩ := ringop_goes hi hat (Updated.refl hat.1)
        (congrArg (Flow.within · .publish Flow.ret) (if_neg hc))
      obtain ⟨hout, honly, hside⟩ := onlySide_of_same r sd hshared
      exact ⟨t, hnext, hown, hout, honly, hside, hlat, hcont⟩

end Sys2Proof.Machine
end

section
/-! PROOFS. `COPY` (spec/40 rules R130, R131): what its one line does in every command that runs a `RINGOP`, and that a run of
slots without a wrap is one run of bytes. -/

namespace Sys2Proof.Machine

/-! ### The line `CP` -/

section
variable {i : Instr} {r : RingId} {s : State}

/-- The copy of an enqueue stores `copiedMem` and goes on to `PUBLISH`. -/
theorem copy_stores (hi : ringopUse i = some (r, .prod)) (hat : s.atLine .cp [.ringop, .copy]) (hc : cap s.cfg r ≠ 0#32) :
    ∃ t, exec i s = .next t ∧ OnlyOwnPort s t ∧
      SameShared (s.setRing r
        { s.ring r with mem := copiedMem s.cfg r s.lat.oh s.lat.src (s.ring r).mem s.lat.k.toNat }) t ∧
      t.lat = s.lat ∧ Continues s t (publishFirst (syncOf s.cfg r .prod)) [.ringop, .publish] := by
  refine ringop_goes hi hat ((Updated.refl hat.1).shared (by simp) (by simp) (by simp) (by simp) (by simp)) ?_
  rw [ringopLine, copyLine, copyIn_eq hc, Flow.ofExcept_ok, Flow.within_ret, State.setRing_cfg]

/-- The copy of a dequeue takes what `copyOut` reads and goes on to `PUBLISH`. -/
theorem copy_loads {es : List Element} (hi : ringopUse i = some (r, .cons)) (hat : s.atLine .cp [.ringop, .copy])
    (h : s.copyOut r s.lat.k.toNat = .ok es) :
    ∃ t, exec i s = .next t ∧ OnlyOwnPort s t ∧ SameShared s t ∧ t.lat = { s.lat with dst := es } ∧
      Continues s t (publishFirst (syncOf s.cfg r .cons)) [.ringop, .publish] := by
  refine ringop_loads (f := fun x => { x with dst := es }) hi hat ?_
  rw [ringopLine, copyLine, h, Flow.ofExcept_ok, Flow.within_ret, State.updLat_cfg]

/-- A dequeue whose copy goes through has read something for each slot. -/
theorem copyOut_of_next {t : State} (hi : ringopUse i = some (r, .cons)) (hat : s.atLine .cp [.ringop, .copy])
    (h : exec i s = .next t) : ∃ es, s.copyOut r s.lat.k.toNat = .ok es := by
  cases hread : s.copyOut r s.lat.k.toNat with
  | ok es => exact ⟨es, rfl⟩
  | error f =>
    rw [exec_ringop_line hi hat, ringopLine, copyLine, hread] at h
    cases h

/-- A change of one ring's storage leaves everything else. -/
theorem onlyMem_of_setRing {t : State} {m : Memory} (h : SameShared (s.setRing r { s.ring r with mem := m }) t) :
    SameOutsideRings s t ∧ (∀ r' sd', t.side r' sd' = s.side r' sd') ∧ (∀ r', r' ≠ r → t.ring r' = s.ring r') ∧
      (t.ring r).mem = m := by
  obtain ⟨⟨hfifo, hdefer⟩, htokens, hthreads, hflags, hfree⟩ := h
  have hring : ∀ r', t.ring r' = (s.setRing r { s.ring r with mem := m }).ring r' := State.ring_congr _ t hfifo hdefer
  refine ⟨?_, fun r' sd' => ?_, fun r' hne => ?_, ?_⟩
  · cases r <;> exact ⟨htokens, hthreads, hflags, hfree⟩
  · rw [State.side, hring]
    cases r <;> cases r' <;> cases sd' <;> rfl
  · rw [hring, State.setRing_ring_other _ _ _ _ hne]
  · rw [hring, State.setRing_ring]

end

/-- Settles O13: the bytes of `copiedMem` in and outside the slots, and the elements of `copyOut`. -/
theorem copyMovesElements : Obligations.CopyMovesElements := by
  intro i r sd s hi hat hpow _ hle addr
  have hc : cap s.cfg r ≠ 0#32 := ne_zero_of_ispow2 hpow
  refine ⟨?_, ?_⟩
  · rintro rfl hm
    obtain ⟨t, hnext, hown, hshared, hlat, hcont⟩ := copy_stores hi hat hc
    obtain ⟨hout, hsides, hother, hmem⟩ := onlyMem_of_setRing hshared
    refine ⟨t, hnext, hown, hout, hlat, hsides, hother, fun j hj b hb => ?_, fun a ha => ?_, hcont⟩
    · rw [hmem]
      exact copiedMem_read_slot hm hpow hb hle hj
    · rw [hmem]
      exact copiedMem_read_outside hm ha
  · rintro rfl es hlen hes
    have hread : s.copyOut r s.lat.k.toNat = .ok es := by
      rw [← hlen, copyOut_eq hc (hlen ▸ hes) le_rfl, List.take_length]
    exact copy_loads hi hat hread

/-! ### Contiguous runs of bytes -/

/-- Two runs of bytes written one after the other are one run. -/
theorem Memory.writeBytes_append (xs ys : List Byte) (m : Memory) (a : Nat) :
    m.writeBytes a (xs ++ ys) = (m.writeBytes a xs).writeBytes (a + xs.length) ys := by
  induction xs generalizing m a with
  | nil => rfl
  | cons x xs ih =>
    rw [List.cons_append, Memory.writeBytes, ih, Memory.writeBytes, List.length_cons, Nat.add_right_comm, Nat.add_assoc]

/-- Two runs of bytes read one after the other are one run. -/
theorem Memory.readBytes_append {xs ys : List Byte} {m : Memory} {a n n' : Nat} (hx : m.readBytes a n = some xs)
    (hy : m.readBytes (a + n) n' = some ys) : m.readBytes a (n + n') = some (xs ++ ys) := by
  rw [Memory.readBytes_eq_some] at hx hy ⊢
  obtain ⟨hlx, hx⟩ := hx
  obtain ⟨hly, hy⟩ := hy
  refine ⟨by rw [List.length_append, hlx, hly], fun j hj => ?_⟩
  by_cases h : j < n
  · rw [List.getElem?_append_left (hlx.symm ▸ h)]
    exact hx j h
  · rw [List.getElem?_append_right (by omega), hlx, ← hy (j - n) (by omega)]
    congr 1
    omega

/-- The bytes of `n` elements of a payload, from element `a` on. -/
def payloadRun (pl : Payload) (e a n : Nat) : List Byte := (List.range n).flatMap fun j => pl.elem e (a + j)

theorem payloadRun_succ (pl : Payload) (e a n : Nat) :
    payloadRun pl e a (n + 1) = payloadRun pl e a n ++ pl.elem e (a + n) := by
  simp [payloadRun, List.range_succ]

theorem payloadRun_length (pl : Payload) (e a n : Nat) : (payloadRun pl e a n).length = n * e := by
  simp [payloadRun, List.length_flatMap]

/-- The slots of the `n` positions from `oh + a` on lie one after the other, from address `b` on. -/
def Contiguous (cfg : Params) (r : RingId) (oh : U32) (a n b : Nat) : Prop :=
  ∀ j, j < n → addrOf cfg r (oh + BitVec.ofNat 32 (a + j)) = b + j * esize cfg r

theorem Contiguous.of_succ {cfg : Params} {r : RingId} {oh : U32} {a n b : Nat} (h : Contiguous cfg r oh a (n + 1) b) :
    Contiguous cfg r oh a n b := fun j hj => h j (Nat.lt_succ_of_lt hj)

/-- The elements copied into such slots are one contiguous write. -/
theorem copiedMem_contiguous {cfg : Params} {r : RingId} {oh : U32} {pl : Payload} {m : Memory} {a b : Nat} :
    ∀ {n : Nat}, Contiguous cfg r oh a n b →
      copiedMem cfg r oh pl m (a + n) = (copiedMem cfg r oh pl m a).writeBytes b (payloadRun pl (esize cfg r) a n)
  | 0, _ => rfl
  | n + 1, h => by
    rw [← Nat.add_assoc, copiedMem, copiedMem_contiguous h.of_succ, h n n.lt_succ_self, payloadRun_succ,
      Memory.writeBytes_append, payloadRun_length]

theorem copiedMem_contiguous_zero {cfg : Params} {r : RingId} {oh : U32} {pl : Payload} {m : Memory} {n b : Nat}
    (h : Contiguous cfg r oh 0 n b) :
    copiedMem cfg r oh pl m n = m.writeBytes b (payloadRun pl (esize cfg r) 0 n) :=
  (congrArg _ (Nat.zero_add n).symm).trans (copiedMem_contiguous h)

/-- One more element read by a dequeue's copy. -/
theorem copyOut_succ {s : State} {r : RingId} {k : Nat} {es : List Element} (h : s.copyOut r (k + 1) = .ok es) :
    ∃ es' e, es = es' ++ [e] ∧ s.copyOut r k = .ok es' ∧
      (s.ring r).mem.readBytes (addrOf s.cfg r (s.lat.oh + BitVec.ofNat 32 k)) (esize s.cfg r) = some e := by
  unfold State.copyOut at h
  split at h
  · cases h
  rename_i es' hes'
  split at h
  · cases h
  rename_i e he
  unfold State.memRead at he
  split at he
  · split at he
    · cases he
      cases h
      exact ⟨es', e, rfl, hes', ‹_›⟩
    · cases he
  · cases he

/-- The elements read from such slots are one contiguous read. -/
theorem copyOut_contiguous {s : State} {r : RingId} {a b : Nat} : ∀ {n : Nat} {es : List Element},
    Contiguous s.cfg r s.lat.oh a n b → s.copyOut r (a + n) = .ok es →
      ∃ xs ys, es = xs ++ ys ∧ s.copyOut r a = .ok xs ∧
        (s.ring r).mem.readBytes b (n * esize s.cfg r) = some ys.flatten
  | 0, es, _, h => ⟨es, [], (List.append_nil es).symm, h, by rw [Nat.zero_mul]; rfl⟩
  | n + 1, es, hcont, h => by
    obtain ⟨es', e, rfl, hes', he⟩ := copyOut_succ (k := a + n) h
    obtain ⟨xs, ys, rfl, hxs, hys⟩ := copyOut_contiguous hcont.of_succ hes'
    rw [hcont n n.lt_succ_self] at he
    refine ⟨xs, ys ++ [e], List.append_assoc _ _ _, hxs, ?_⟩
    rw [Nat.succ_mul, List.flatten_append, List.flatten_singleton]
    exact Memory.readBytes_append hys he

theorem copyOut_contiguous_zero {s : State} {r : RingId} {n b : Nat} {es : List Element}
    (h : Contiguous s.cfg r s.lat.oh 0 n b) (hes : s.copyOut r n = .ok es) :
    (s.ring r).mem.readBytes b (n * esize s.cfg r) = some es.flatten := by
  obtain ⟨xs, ys, rfl, hxs, hys⟩ := copyOut_contiguous h ((Nat.zero_add n).symm ▸ hes)
  cases hxs
  exact hys

/-! ### The wrap (spec/20 rule R61, spec/40 rule R131) -/

section
variable {cfg : Params} {r : RingId} {oh : U32} {n : Nat}

theorem slotOf_lt (hpow : ispow2 (cap cfg r) = true) (x : U32) : (slotOf cfg r x).toNat < (cap cfg r).toNat := by
  rw [slotOf_toNat x hpow]
  refine Nat.mod_lt _ (Nat.pos_of_ne_zero fun h0 => ne_zero_of_ispow2 hpow ?_)
  exact BitVec.eq_of_toNat_eq h0

/-- The capacity divides the range of the counters, so slots go on over their wrap. -/
theorem slotOf_add (hpow : ispow2 (cap cfg r) = true) (oh : U32) (j : Nat) :
    (slotOf cfg r (oh + BitVec.ofNat 32 j)).toNat = ((slotOf cfg r oh).toNat + j) % (cap cfg r).toNat := by
  obtain ⟨e, he, hce⟩ := (ispow2_iff _).mp hpow
  have hdvd : (cap cfg r).toNat ∣ 2 ^ 32 := hce ▸ Nat.pow_dvd_pow 2 (by omega)
  rw [slotOf_toNat _ hpow, slotOf_toNat _ hpow, BitVec.toNat_add, BitVec.toNat_ofNat, Nat.add_mod_mod,
    Nat.mod_mod_of_dvd _ hdvd, Nat.mod_add_mod]

/-- The slots before the wrap. -/
theorem contiguous_before_wrap (hpow : ispow2 (cap cfg r) = true)
    (h : (slotOf cfg r oh).toNat + n ≤ (cap cfg r).toNat) :
    Contiguous cfg r oh 0 n ((slotOf cfg r oh).toNat * esize cfg r) := fun j hj => by
  rw [addrOf, Nat.zero_add, slotOf_add hpow, Nat.mod_eq_of_lt (by omega), Nat.add_mul]

/-- The slots after the wrap. -/
theorem contiguous_after_wrap (hpow : ispow2 (cap cfg r) = true) (h : n ≤ (slotOf cfg r oh).toNat) :
    Contiguous cfg r oh ((cap cfg r).toNat - (slotOf cfg r oh).toNat) n 0 := fun j hj => by
  have hlt := slotOf_lt hpow oh
  have hsum : (slotOf cfg r oh).toNat + ((cap cfg r).toNat - (slotOf cfg r oh).toNat + j) = (cap cfg r).toNat + j := by
    omega
  rw [addrOf, slotOf_add hpow, hsum, Nat.add_mod_left, Nat.mod_eq_of_lt (by omega), Nat.zero_add]

end

/-- Settles O15: the slots before the wrap are one run of bytes and those after it another, from address 0 on. -/
theorem copyInTwoMoves : Obligations.CopyInTwoMoves := by
  intro i r sd s t hi hat hpow hle hnext e i0 k c items mem
  have hlt : i0 < c := slotOf_lt hpow _
  have hkc : k ≤ c := hle
  have hitems : ∀ a b, items a b = payloadRun s.lat.src e a (b - a) := fun _ _ => rfl
  have hwrap : ¬ i0 + k ≤ c → k = (c - i0) + (k - (c - i0)) := fun h => by omega
  have hhead : Contiguous s.cfg r s.lat.oh 0 (c - i0) (i0 * e) := contiguous_before_wrap hpow (by omega)
  have hrest : Contiguous s.cfg r s.lat.oh (c - i0) (k - (c - i0)) 0 := contiguous_after_wrap hpow (by omega)
  refine ⟨?_, ?_⟩
  · rintro rfl
    obtain ⟨t', hnext', -, hshared, -, -⟩ := copy_stores hi hat (ne_zero_of_ispow2 hpow)
    obtain rfl : t' = t := Host.Outcome.next.inj (hnext'.symm.trans hnext)
    obtain ⟨-, -, -, hmem⟩ := onlyMem_of_setRing hshared
    rw [hmem, hitems, hitems, hitems]
    split
    · exact copiedMem_contiguous_zero (contiguous_before_wrap hpow ‹_›)
    · rw [Nat.sub_zero, ← copiedMem_contiguous_zero hhead, ← copiedMem_contiguous hrest, ← hwrap ‹_›]
  · rintro rfl
    obtain ⟨es, hes⟩ := copyOut_of_next hi hat hnext
    obtain ⟨t', hnext', -, -, hlat, -⟩ := copy_loads hi hat hes
    obtain rfl : t' = t := Host.Outcome.next.inj (hnext'.symm.trans hnext)
    rw [hlat]
    split
    · exact copyOut_contiguous_zero (contiguous_before_wrap hpow ‹_›) hes
    · have hes' : s.copyOut r (c - i0 + (k - (c - i0))) = .ok es := (congrArg _ (hwrap ‹_›).symm).trans hes
      obtain ⟨xs, ys, rfl, hxs, hys⟩ := copyOut_contiguous hrest hes'
      exact ⟨xs.flatten, ys.flatten, copyOut_contiguous_zero hhead hxs, hys, List.flatten_append⟩

end Sys2Proof.Machine
end

section
/-! PROOFS. The ends of a reclaim pass over its oldest entry (spec/40 rules R127, R137, spec/43 rule R222): the lines that
reserve and read it, and the line that gives it back. -/

namespace Sys2Proof.Machine

section
variable {i : Instr} {s u : State} {x : Latches} {l l' : Label} {st st' : List Seq}

/-- A line that goes on within the pass. -/
theorem pass_goes (hi : reclaims i = true) (hat : s.atLine l (.reclaimseq :: st)) (hu : Updated s u x)
    (h : reclaimLine l st s = .goto l' st' u) :
    ∃ t, exec i s = .next t ∧ OnlyOwnPort s t ∧ SameShared u t ∧ t.lat = x ∧ Continues s t l' (.reclaimseq :: st') := by
  obtain ⟨k, hk⟩ := exists_afterReclaimOf hi
  rw [exec_busy hat, lineFlow_reclaim hk, h]
  exact hu.goto l' (.reclaimseq :: st')

/-- A line that loads into the latches. -/
theorem pass_loads {f : Latches → Latches} (hi : reclaims i = true) (hat : s.atLine l (.reclaimseq :: st))
    (h : reclaimLine l st s = .goto l' st' (s.updLat f)) :
    ∃ t, exec i s = .next t ∧ OnlyOwnPort s t ∧ SameShared s t ∧ t.lat = f s.lat ∧
      Continues s t l' (.reclaimseq :: st') :=
  pass_goes (u := s.updLat f) hi hat ((Updated.refl hat.1).updLat f) h

/-- A line that ends the pass. -/
theorem pass_returns (hi : reclaims i = true) (hat : s.atLine l (.reclaimseq :: st)) (hu : Updated s u x)
    (h : reclaimLine l st s = .ret u) :
    ∃ t, exec i s = .next t ∧ OnlyOwnPort s t ∧ SameShared u t ∧ AfterReclaim i s t x := by
  obtain ⟨k, hk⟩ := exists_afterReclaimOf hi
  rw [exec_busy hat, lineFlow_reclaim hk, h]
  exact afterReclaimOf_outcome hk hu

/-- A line of the pass's `RESERVE` that goes on within it. -/
theorem pass_reserve_goes (hi : reclaims i = true) (hat : s.atLine l [.reclaimseq, .reserve]) (hu : Updated s u x)
    (h : reserveLine .defer .cons l s = .goto l' [] u) :
    ∃ t, exec i s = .next t ∧ OnlyOwnPort s t ∧ SameShared u t ∧ t.lat = x ∧ Continues s t l' [.reclaimseq, .reserve] :=
  pass_goes hi hat hu (by rw [reclaimLine, h, Flow.within_goto])

/-- A line of the pass's `RESERVE` that returns with nothing reserved ends the pass. -/
theorem pass_finds_nothing (hi : reclaims i = true) (hat : s.atLine l [.reclaimseq, .reserve]) (hu : Updated s u x)
    (h : reserveLine .defer .cons l s = .ret u) (hk : x.k = 0#32) :
    ∃ t, exec i s = .next t ∧ OnlyOwnPort s t ∧ SameShared u t ∧ AfterReclaim i s t { x with why := .empty } :=
  pass_returns (u := u.updLat fun y => { y with why := .empty }) hi hat (hu.updLat fun y => { y with why := .empty })
    (by rw [reclaimLine, h, Flow.within_ret, reclaimReserved, hu.lat, if_pos hk])

/-- A line of the pass's `RESERVE` that returns with an entry reserved goes on to read it. -/
theorem pass_takes (hi : reclaims i = true) (hat : s.atLine l [.reclaimseq, .reserve]) (hu : Updated s u x)
    (h : reserveLine .defer .cons l s = .ret u) (hk : x.k ≠ 0#32) :
    ∃ t, exec i s = .next t ∧ OnlyOwnPort s t ∧ SameShared u t ∧ t.lat = x ∧ Continues s t .x1 [.reclaimseq] :=
  pass_goes hi hat hu (by rw [reclaimLine, h, Flow.within_ret, reclaimReserved, hu.lat, if_neg hk])

end

/-! ### The statements -/

/-- Settles O35: `H1`, `H2` and `H3` are those of `RESERVE` under `HTS`, `X1` reads the entry's slot. -/
theorem reclaimTakesOldest : Obligations.ReclaimTakesOldest := by
  intro i s hi
  refine ⟨fun hat => ?_, fun hat => ?_, fun hat hk => ?_, fun hat hcap e he => ?_⟩
  · by_cases hw : loOf s.defer.cons.a ≠ hiOf s.defer.cons.a
    · simp only [if_pos hw]
      exact pass_reserve_goes hi hat (Updated.refl hat.1) (if_pos hw)
    · simp only [if_neg hw]
      exact pass_loads (f := fun x => { x with oh := loOf s.defer.cons.a }) hi hat
        (congrArg (Flow.within · .reserve reclaimReserved) (if_neg hw))
  · have hu : Updated s (s.loadAvail .defer .cons) (s.availLat .defer .cons) := .loadAvail hat.1
    have hline : reserveLine .defer .cons .h2 s = reserveAvail .defer .cons .h3 s := rfl
    simp only [reserveAvail, hu.lat] at hline
    by_cases hk : (s.availLat .defer .cons).k = 0#32
    · rw [if_pos hk] at hline
      obtain ⟨t, hnext, hown, hshared, hafter⟩ := pass_finds_nothing hi hat hu hline hk
      exact ⟨t, hnext, hown, hshared, (if_pos hk).mpr hafter⟩
    · rw [if_neg hk] at hline
      obtain ⟨t, hnext, hown, hshared, hlat, hcont⟩ := pass_reserve_goes hi hat hu hline
      exact ⟨t, hnext, hown, hshared, (if_neg hk).mpr ⟨hlat, hcont⟩⟩
  · by_cases hc : s.defer.cons.a = pack s.lat.oh s.lat.oh
    · simp only [if_pos hc]
      obtain ⟨t, hnext, hown, hshared, hlat, hcont⟩ :=
        pass_takes hi hat ((Updated.refl hat.1).setA .defer .cons _) (if_pos hc) hk
      obtain ⟨hout, honly, hside⟩ := onlySide_of_setSide hshared
      exact ⟨t, hnext, hown, hout, honly, hlat, hside, hcont⟩
    · simp only [if_neg hc]
      obtain ⟨t, hnext, hown, hshared, hlat, hcont⟩ := pass_reserve_goes hi hat (Updated.refl hat.1) (if_neg hc)
      obtain ⟨hout, honly, hside⟩ := onlySide_of_same .defer .cons hshared
      exact ⟨t, hnext, hown, hout, honly, hlat, hside, hcont⟩
  · have hread : s.memRead .defer (addrOf s.cfg .defer s.lat.oh) (esize s.cfg .defer) = .ok e := by
      rw [State.memRead, if_pos (addrOf_within s.cfg .defer s.lat.oh hcap)]
      simp only [State.ring, he]
    refine pass_loads (f := fun x => { x with ent := e, t := entryToken e, wt := false }) hi hat ?_
    rw [reclaimLine, reclaimRead, hread]
    rfl

/-- Settles O37: `H5` stores the closed word and the pass returns in the same step. -/
theorem reclaimCancels : Obligations.ReclaimCancels := by
  intro i s hi hat
  have hu := (Updated.refl hat.1).setA .defer .cons (pack s.lat.oh s.lat.oh)
  obtain ⟨t, hnext, hown, hshared, hafter⟩ := pass_returns hi hat (hu.updLat fun x => { x with why := .blocked }) rfl
  obtain ⟨hout, honly, hside⟩ := onlySide_of_setSide (s := s) hshared
  exact ⟨t, hnext, hown, hout, honly, hside, hafter⟩

end Sys2Proof.Machine
end

section
/-! PROOFS. No command reads the list of coming events (log entry 17): a grant does the same whatever is to come after it
(spec/20 rule R67), so a run of one port's grants goes through in the same way when more events follow. -/

namespace Sys2Proof.Machine

/-- `s` with other events to come. -/
def State.resched (s : State) (es : List Event) : State := { s with sched := es }

/-- The outcome of a line with other events to come. -/
def Flow.resched (es : List Event) : Flow → Flow
  | .goto l st s => .goto l st (s.resched es)
  | .ret s => .ret (s.resched es)
  | .ended s => .ended (s.resched es)
  | .stop f => .stop f

/-- The outcome of a step with other events to come. -/
def outcomeResched (es : List Event) : Host.Outcome State Fault Refusal → Host.Outcome State Fault Refusal
  | .next s => .next (s.resched es)
  | .fault f => .fault f
  | .refused f => .refused f

/-- The line does not read the list of coming events. -/
def IgnoresSched (f : State → Flow) : Prop := ∀ s es, f (s.resched es) = (f s).resched es

theorem Flow.outcome_resched (x : Flow) (es : List Event) : (x.resched es).outcome = outcomeResched es x.outcome := by
  cases x <;> rfl

theorem Flow.resched_ite {c : Prop} [Decidable c] (es : List Event) (x y : Flow) :
    (if c then x else y).resched es = if c then x.resched es else y.resched es := apply_ite _ _ _ _

theorem IgnoresSched.within {f k : State → Flow} {q : Seq} (hf : IgnoresSched f) (hk : IgnoresSched k) :
    IgnoresSched fun s => (f s).within q k := fun s es => by
  simp only [hf s es]
  cases f s with
  | ret t => exact hk t es
  | goto l st t => rfl
  | ended t => rfl
  | stop e => rfl

/-! ### The lines -/

theorem reserveLine_ignoresSched (r : RingId) (sd : Side) (l : Label) : IgnoresSched (reserveLine r sd l) := fun s es => by
  cases l
  case m2 => simp only [reserveLine, reserveAvail, Flow.resched_ite]; rfl
  case m3 => simp only [reserveLine, reserveCasMt, Flow.resched_ite]; cases r <;> rfl
  case s1 => simp only [reserveLine, reserveOwn, Flow.resched_ite]; cases r <;> rfl
  case s2 => simp only [reserveLine, reserveAvailSt, Flow.resched_ite]; cases r <;> rfl
  case s3 => cases r <;> rfl
  case h1 => simp only [reserveLine, reserveLoadHts, Flow.resched_ite]; rfl
  case h2 => simp only [reserveLine, reserveAvail, Flow.resched_ite]; rfl
  case h3 => simp only [reserveLine, reserveCasHts, Flow.resched_ite]; cases r <;> rfl
  case t2 => simp only [reserveLine, reserveWaitRts, Flow.resched_ite]; rfl
  case t3 => simp only [reserveLine, reserveAvail, Flow.resched_ite]; rfl
  case t4 => simp only [reserveLine, reserveCasRts, Flow.resched_ite]; cases r <;> rfl
  all_goals rfl

theorem memWrite_resched (s : State) (r : RingId) (a : Nat) (v : List Byte) (es : List Event) :
    (s.resched es).memWrite r a v = (s.memWrite r a v).map (State.resched · es) := by
  simp only [State.memWrite, apply_ite (Except.map (State.resched · es))]
  cases r <;> rfl

theorem copyIn_resched (s : State) (r : RingId) (es : List Event) :
    ∀ k, (s.resched es).copyIn r k = (s.copyIn r k).map (State.resched · es)
  | 0 => rfl
  | k + 1 => by
    simp only [State.copyIn, copyIn_resched s r es k]
    cases s.copyIn r k with
    | error f => rfl
    | ok t => exact memWrite_resched t r _ _ es

theorem copyOut_resched (s : State) (r : RingId) (es : List Event) : ∀ k, (s.resched es).copyOut r k = s.copyOut r k
  | 0 => rfl
  | k + 1 => by
    simp only [State.copyOut, copyOut_resched s r es k]
    rfl

theorem copyLine_ignoresSched (r : RingId) (sd : Side) : IgnoresSched (copyLine r sd) := fun s es => by
  cases sd with
  | prod =>
    simp only [copyLine, copyIn_resched]
    change Flow.ofExcept ((s.copyIn r s.lat.k.toNat).map _) _ = _
    cases s.copyIn r s.lat.k.toNat <;> rfl
  | cons =>
    simp only [copyLine, copyOut_resched]
    change Flow.ofExcept (s.copyOut r s.lat.k.toNat) _ = _
    cases s.copyOut r s.lat.k.toNat <;> rfl

theorem publishLine_ignoresSched (r : RingId) (sd : Side) (l : Label) : IgnoresSched (publishLine r sd l) := fun s es => by
  have htail : ∀ v, (s.resched es).storeTail r sd v = (s.storeTail r sd v).resched es := fun v => by
    simp only [State.storeTail, State.resched]
    split <;> cases r <;> rfl
  cases l
  case m4 => simp only [publishLine, publishTurn, Flow.resched_ite]; rfl
  case m5 => exact congrArg Flow.ret (htail _)
  case s4 =>
    refine congrArg Flow.ret ((congrArg (State.setSown · r sd Owner.free) (htail _)).trans ?_)
    cases r <;> rfl
  case h4 => cases r <;> rfl
  case t7 => simp only [publishLine, publishCasRts, Flow.resched_ite]; cases r <;> rfl
  all_goals rfl

theorem cancelLine_ignoresSched (r : RingId) (sd : Side) (l : Label) : IgnoresSched (cancelLine r sd l) := fun s es => by
  cases l
  case h5 => cases r <;> rfl
  all_goals rfl

theorem countLine_ignoresSched (r : RingId) (l : Label) : IgnoresSched (countLine r l) := fun s es => by
  cases l <;> rfl

theorem ringopLine_ignoresSched (r : RingId) (sd : Side) (l : Label) (st : List Seq) :
    IgnoresSched (ringopLine r sd l st) := fun s es => by
  unfold ringopLine
  split
  · exact (reserveLine_ignoresSched r sd l).within
      (fun t es => by simp only [ringopReserved, Flow.resched_ite]; rfl) s es
  · exact (copyLine_ignoresSched r sd).within (fun _ _ => rfl) s es
  · exact (publishLine_ignoresSched r sd l).within (fun _ _ => rfl) s es
  · rfl

theorem checkNext_ignoresSched : IgnoresSched checkNext := fun s es => by
  simp only [checkNext, checkFin, Flow.resched_ite]
  rfl

theorem checkLine_ignoresSched (l : Label) : IgnoresSched (checkLine l) := fun s es => by
  cases l
  case v1 => simp only [checkLine, checkFast, Flow.resched_ite]; rfl
  case v2 => exact checkNext_ignoresSched (s.updLat fun x => { x with bm := s.bitmap.getD x.wi.toNat 0#64 }) es
  case v3 =>
    simp only [checkLine, checkThread, Flow.resched_ite, ← checkNext_ignoresSched _ es]
    rfl
  all_goals rfl

theorem reclaimLoop_ignoresSched : IgnoresSched reclaimLoop := fun s es => by
  simp only [reclaimLoop, Flow.resched_ite]
  rfl

theorem reclaimLine_ignoresSched (l : Label) (st : List Seq) : IgnoresSched (reclaimLine l st) := fun s es => by
  unfold reclaimLine
  split
  · exact (reserveLine_ignoresSched .defer .cons l).within
      (fun t es => by simp only [reclaimReserved, Flow.resched_ite]; rfl) s es
  · change Flow.ofExcept (s.memRead .defer (addrOf s.cfg .defer s.lat.oh) (esize s.cfg .defer)) _ = _
    unfold reclaimRead
    cases s.memRead .defer (addrOf s.cfg .defer s.lat.oh) (esize s.cfg .defer) <;> rfl
  · let m : FreeMsg := { ctx := s.cfg.dqCtx, element := entryElem s.lat.ent, count := 1#32 }
    exact reclaimLoop_ignoresSched (((s.setA .defer .cons (pack (s.lat.oh + 1#32) (s.lat.oh + 1#32))).emitFree m).updLat
      fun x => { x with freed := x.freed + 1#32 }) es
  · exact (checkLine_ignoresSched l).within (fun t es => by simp only [reclaimChecked, Flow.resched_ite]; rfl) s es
  · exact (cancelLine_ignoresSched .defer .cons l).within (fun _ _ => rfl) s es
  · rfl

/-! ### What follows a sub-sequence -/

theorem afterRingopOf_ignoresSched (i : Instr) : IgnoresSched (afterRingopOf i) := fun s es => by
  cases i <;> rfl

theorem reclaimCall_ignoresSched (lim : Limit) : IgnoresSched (reclaimCall lim) := fun s es =>
  reclaimLoop_ignoresSched (s.updLat fun x => { x with lim := lim, freed := 0#32 }) es

theorem afterCountOf_ignoresSched (i : Instr) : IgnoresSched (afterCountOf i) := fun s es => by
  cases i
  case dqEnq =>
    have hcall := (reclaimCall_ignoresSched (.num s.cfg.maxReclaim)).within (q := .reclaimseq)
      (k := dqEnqDone) (fun _ _ => rfl) s es
    simp only [afterCountOf, dqEnqCounted, Flow.resched_ite, ← hcall]
    rfl
  all_goals rfl

theorem afterReclaimOf_ignoresSched {i : Instr} {k : State → Flow} (h : afterReclaimOf i = some k) : IgnoresSched k :=
  fun s es => by
    cases i <;> cases h
    case dqDelete => simp only [dqDeletePassed, Flow.resched_ite]; rfl
    all_goals rfl

theorem afterCheckOf_ignoresSched {i : Instr} {k : State → Flow} (h : afterCheckOf i = some k) : IgnoresSched k :=
  fun s es => by cases i <;> cases h <;> rfl

/-! ### A command's own code -/

theorem tkinc_ignoresSched {k : State → Flow} (hk : IgnoresSched k) : IgnoresSched fun s => tkinc s k := fun s es => by
  simp only [tkinc, Flow.resched_ite, ← hk _ es]
  rfl

theorem ifAlive_ignoresSched {k : State → Flow} (hk : IgnoresSched k) : IgnoresSched fun s => ifAlive s k := fun s es => by
  simp only [ifAlive, Flow.resched_ite, ← hk s es]
  rfl

theorem onlyAt_ignoresSched {first l : Label} {f : State → Flow} (hf : IgnoresSched f) :
    IgnoresSched fun s => onlyAt first l (f s) := fun s es => by
  simp only [onlyAt, Flow.resched_ite, ← hf s es]
  rfl

theorem syncBegin_ignoresSched (tid : U32) : IgnoresSched (syncBegin tid) := fun s es => by
  have hissue : IgnoresSched fun u => tkinc u fun t => if t.lat.rdr then .goto .y2 [] t else syncCheck t :=
    tkinc_ignoresSched fun t es => by
      simp only [Flow.resched_ite]
      rfl
  simp only [syncBegin, Flow.resched_ite]
  exact if_congr Iff.rfl rfl
    (hissue (s.updLat fun x => { x with rdr := decide (tid < s.cfg.maxThreads) && s.regd tid.toNat }) es)

theorem dqEnqBegin_ignoresSched : IgnoresSched dqEnqBegin :=
  ifAlive_ignoresSched (tkinc_ignoresSched fun _ _ => rfl)

theorem ownLine_ignoresSched (i : Instr) (l : Label) : IgnoresSched (ownLine i l) := by
  cases i with
  | thrReg tid =>
    exact onlyAt_ignoresSched fun s es => by
      simp only [regLine, Flow.resched_ite]
      rfl
  | thrUnreg tid =>
    exact onlyAt_ignoresSched fun s es => by
      simp only [unregLine, Flow.resched_ite]
      rfl
  | quiescent tid =>
    intro s es
    simp only [ownLine, onlyAt, quiescentProbe, Flow.resched_ite]
    rfl
  | start => exact onlyAt_ignoresSched (tkinc_ignoresSched fun _ _ => rfl)
  | sync tid =>
    intro s es
    simp only [ownLine, onlyAt, Flow.resched_ite, ← syncBegin_ignoresSched tid s es]
    rfl
  | rdLock tid =>
    exact onlyAt_ignoresSched fun s es => by
      simp only [lockLine, Flow.resched_ite]
      rfl
  | rdUnlock tid =>
    exact onlyAt_ignoresSched fun s es => by
      simp only [unlockLine, Flow.resched_ite]
      rfl
  | dqEnq => exact onlyAt_ignoresSched dqEnqBegin_ignoresSched
  | dqReclaim n =>
    exact onlyAt_ignoresSched (ifAlive_ignoresSched ((reclaimCall_ignoresSched (.num n)).within fun _ _ => rfl))
  | dqDelete =>
    intro s es
    have hpass := ifAlive_ignoresSched ((reclaimCall_ignoresSched .inf).within (q := .reclaimseq)
      (afterReclaimOf_ignoresSched (i := .dqDelete) rfl)) s es
    simp only [ownLine, onlyAt, Flow.resched_ite, ← hpass]
    rfl
  | csrRd reg idx =>
    exact onlyAt_ignoresSched fun s es => by
      have hcsr : (s.resched es).csr reg idx = s.csr reg idx := rfl
      rw [csrLine, csrLine, hcsr]
      cases s.csr reg idx <;> rfl
  | _ => exact fun _ _ => rfl

theorem lineFlow_ignoresSched (i : Instr) (l : Label) (st : List Seq) : IgnoresSched (lineFlow i l st) := fun s es => by
  unfold lineFlow
  split
  · exact ownLine_ignoresSched i l s es
  · split
    · exact (ringopLine_ignoresSched _ _ l _).within (afterRingopOf_ignoresSched i) s es
    · rfl
  · split
    · exact (countLine_ignoresSched _ l).within (afterCountOf_ignoresSched i) s es
    · rfl
  · split
    · exact (checkLine_ignoresSched l).within (afterCheckOf_ignoresSched ‹_›) s es
    · rfl
  · split
    · exact (reclaimLine_ignoresSched l _).within (afterReclaimOf_ignoresSched ‹_›) s es
    · rfl
  · rfl

theorem enterOf_ignoresSched (i : Instr) : IgnoresSched (enterOf i) := fun s es => by
  cases i <;> rfl

theorem accept_resched (i : Instr) (s : State) (es : List Event) :
    accept (unitOf i) (operandErrorOf (s.resched es) i) (zeroCountOf i) (enterOf i) (s.resched es) =
      (accept (unitOf i) (operandErrorOf s i) (zeroCountOf i) (enterOf i) s).resched es := by
  have hport : (s.resched es).port = s.port := rfl
  have hop : operandErrorOf (s.resched es) i = operandErrorOf s i := by cases i <;> rfl
  have hunit : (s.resched es).unitOk (unitOf i) = s.unitOk (unitOf i) := by cases i <;> rfl
  unfold accept
  rw [hport, hop, hunit]
  split
  · rfl
  · rename_i m _ _
    simp only [Flow.resched_ite, ← enterOf_ignoresSched i (s.popCmd.latch m) es]
    rfl

/-! ### One event and a run -/

/-- A command's step does not read the list of coming events. -/
theorem exec_resched {i : Instr} {s : State} (hg : s.granted) (es : List Event) :
    exec i (s.resched es) = outcomeResched es (exec i s) := by
  cases hp : s.phase with
  | idle => rw [exec_idle hg hp, exec_idle (s := s.resched es) hg hp, accept_resched, Flow.outcome_resched]
  | busy l st =>
    rw [exec_busy ⟨hg, hp⟩, exec_busy (s := s.resched es) ⟨hg, hp⟩, lineFlow_ignoresSched, Flow.outcome_resched]

/-- Neither does a grant. -/
theorem stepEvent_grant_resched (p : Nat) (s : State) (es : List Event) :
    stepEvent (some (.grant p)) (s.resched es) = outcomeResched es (stepEvent (some (.grant p)) s) := by
  cases hq : s.ports[p]? with
  | none =>
    have hq' : (s.resched es).ports[p]? = none := hq
    simp only [stepEvent, hq, hq', outcomeResched]
  | some q =>
    have hexec : ∀ i, exec i { s.resched es with cur := p } = outcomeResched es (exec i { s with cur := p }) := fun i =>
      exec_resched (s := { s with cur := p }) (List.getElem?_eq_some_iff.mp hq).1 es
    rw [stepEvent_grant hq, stepEvent_grant (s := s.resched es) hq, grantTo, grantTo]
    split
    · split
      · exact hexec _
      · rfl
    · have hcfg : (s.resched es).cfg = s.cfg := rfl
      rw [hcfg]
      split
      · exact hexec _
      · rfl
    · rfl

/-- `k` grants of port `p` and what follows them: when the grants alone lead to `t`, what follows happens at `t`. -/
theorem run_grants_then {p : Nat} {t : State} (es : List Event) (n : Nat) : ∀ (k : Nat) (s : State),
    runAlone p k s = .next t →
      Sys2Proof.core.run (k + n) (s.resched (List.replicate k (.grant p) ++ es)) = Sys2Proof.core.run n (t.resched es)
  | 0, s, h => by
    cases h
    rw [Nat.zero_add]
    rfl
  | k + 1, s, h => by
    have hstep : ∀ es', step (s.resched (.grant p :: es')) = outcomeResched es' (stepEvent (some (.grant p)) s) :=
      fun es' => (step_sched rfl).trans (stepEvent_grant_resched p s es')
    have hcore : ∀ es', Sys2Proof.core.step (s.resched (.grant p :: es')) = step (s.resched (.grant p :: es')) :=
      fun _ => rfl
    change Sys2Proof.core.run (k + 1) (s.resched (.grant p :: List.replicate k (.grant p))) = .next t at h
    cases hs : stepEvent (some (.grant p)) s with
    | next u =>
      rw [run_succ ((hstep _).trans (congrArg _ hs))] at h
      rw [Nat.add_right_comm, List.replicate_succ, List.cons_append, run_succ ((hstep _).trans (congrArg _ hs))]
      exact run_grants_then es n k u h
    | fault f =>
      simp only [Host.Core.run, hcore, hstep, hs, outcomeResched] at h
      cases h
    | refused f =>
      simp only [Host.Core.run, hcore, hstep, hs, outcomeResched] at h
      cases h

end Sys2Proof.Machine
end

section
/-! PROOFS. FIFO order (spec/40 rule R143, spec/41 rules R170 to R173): an enqueue alone and then a dequeue alone. -/

namespace Sys2Proof.Machine

/-- All of what is asked for is available (spec/40 rule R122). -/
theorem clamp_of_le {av n : U32} (h : n ≤ av) (beh : Beh) : clamp av n beh = n := by
  cases beh <;> exact if_pos h

/-- The tail of an idle side is its head (spec/40 rule R139). -/
theorem tailview_idle {s : State} {r : RingId} {sd : Side} {h c : U32}
    (hside : s.side r sd = idleSide (syncOf s.cfg r sd) h c) : s.tailview r sd = h := by
  rw [tailview_eq_ite, hside]
  cases syncOf s.cfg r sd <;> simp [idleSide]

/-- An enqueue on an empty ring finds the whole capacity (spec/40 rule R121). -/
theorem foundK_prod_empty {s : State} {h c n : U32} {beh : Beh}
    (hcons : s.side .fifo .cons = idleSide (syncOf s.cfg .fifo .cons) h c) (hn : n ≤ cap s.cfg .fifo) :
    s.foundK .prod h n beh = n := by
  have hav : avail s.cfg .fifo .prod h (s.tailview .fifo .cons) = cap s.cfg .fifo := by
    rw [tailview_idle hcons, avail, BitVec.add_sub_cancel]
  exact clamp_of_le (hav.symm ▸ hn) beh

/-- A dequeue finds what was published. -/
theorem foundK_cons_published {s : State} {h c n : U32} {beh : Beh}
    (hprod : s.side .fifo .prod = idleSide (syncOf s.cfg .fifo .prod) (h + n) c) : s.foundK .cons h n beh = n := by
  have hav : avail s.cfg .fifo .cons h (s.tailview .fifo .prod) = n := by
    rw [tailview_idle hprod, avail, BitVec.add_comm, BitVec.add_sub_cancel]
  exact clamp_of_le (hav.symm ▸ BitVec.le_refl n) beh

/-- The slot of a copied element is read back as that element. -/
theorem copiedMem_readBytes {cfg : Params} {r : RingId} {oh : U32} {pl : Payload} {m : Memory} {j k : Nat}
    (hm : m.wf = true) (hpow : ispow2 (cap cfg r) = true) (hk : k ≤ (cap cfg r).toNat) (hj : j < k) :
    (copiedMem cfg r oh pl m k).readBytes (addrOf cfg r (oh + BitVec.ofNat 32 j)) (esize cfg r) =
      some (pl.elem (esize cfg r) j) := by
  rw [Memory.readBytes_eq_some]
  refine ⟨payload_elem_length pl _ j, fun b hb => ?_⟩
  rw [copiedMem_read_slot hm hpow hb hk hj, payload_elem_getElem? pl j hb]

/-- Settles O21: the enqueue runs as in `WaitsAlone.enqueues` and the dequeue, from the state it leaves, as in
`WaitsAlone.dequeues`. -/
theorem fifoOrder : Obligations.FifoOrder := by
  intro s p p' q q' m m' rest rest' i i' n beh beh' h c c' hne hport hidle hch hport' hidle' hch' hdec hreq hdec' hreq'
    hn hle hok hvalid hmem dp dc hprod hcons a b
  have hpow : ispow2 s.cfg.c0 = true := (ispow2_iff _).mpr ((ringValid_iff s.cfg).mp hvalid).1
  have hsteps : ∀ d, ringopSteps d = aloneSteps d n := fun d => (if_neg hn).symm
  have henq : WaitsAlone s p q m rest i .prod n beh n h c :=
    ⟨hreq, hn, hdec, hport, hidle, hch, hok, hpow, hprod, foundK_prod_empty hcons hle⟩
  obtain ⟨x, hxk, hrun⟩ := henq.enqueues
  set t := s.solo p .prod (({ q with cmdch := rest } : Port).answered .prod x) (aloneSide s.cfg.psync0 h c n)
    (copiedMem s.cfg .fifo h m.payload s.fifo.mem n.toNat) 0
  obtain ⟨-, -, htp⟩ : _ ∧ _ ∧ t.ports[p]? = some _ := solo_frame henq.exists_port
  have htport : t.ports[p']? = some q' := (List.getElem?_set_ne hne).trans hport'
  have htprod : t.side .fifo .prod = idleSide (syncOf t.cfg .fifo .prod) (h + n) (c + 1#32) := if_neg hn
  have hdeq : WaitsAlone t p' q' m' rest' i' .cons n beh' n h c' :=
    ⟨hreq', hn, hdec', htport, hidle', hch', hok, hpow, hcons, foundK_cons_published htprod⟩
  let es := (List.range n.toNat).map fun j => m.payload.elem (esize s.cfg .fifo) j
  have hlen : es.length = n.toNat := by simp [es]
  have hread : ∀ j, j < es.length →
      t.fifo.mem.readBytes (addrOf s.cfg .fifo (h + BitVec.ofNat 32 j)) (esize s.cfg .fifo) = es[j]? := fun j hj => by
    have hj' : j < n.toNat := hlen ▸ hj
    rw [show es[j]? = some (m.payload.elem (esize s.cfg .fifo) j) by simp [es, hj']]
    exact copiedMem_readBytes (r := .fifo) hmem hpow hle hj'
  obtain ⟨x', hxk', hdst, hrun'⟩ := hdeq.dequeues hlen hread
  obtain ⟨-, -, htp'⟩ := solo_frame (s := t) (sd := .cons) (q' := ({ q' with cmdch := rest' } : Port).answered .cons x')
    (w := aloneSide t.cfg.csync0 h c' n) (m := t.fifo.mem) hdeq.exists_port
  refine ⟨_, _, _, ?_, (List.getElem?_set_ne hne.symm).trans htp, rfl, ?_, htp', rfl, ?_⟩
  · have hboth := run_grants_then (List.replicate b (.grant p')) b a s (by rw [← hrun, ← hsteps]; rfl)
    refine hboth.trans (Eq.trans ?_ hrun')
    rw [← hsteps]
    rfl
  · rw [← hxk]
    rfl
  · simp only [Port.answered, ringAnswer, hxk', hdst, es]

end Sys2Proof.Machine
end

section
/-! PROOFS. `COUNTSEQ` (spec/41 rule R176) in the commands that run it: `RING_COUNT`, `RING_FREE` (rules R174, R175) and
`DQ_ENQ` (spec/43 rule R224), with the line that issues the token of `DQ_ENQ` and starts its push. -/

namespace Sys2Proof.Machine

section
variable {i : Instr} {r : RingId} {s u : State}

/-! ### The two lines of `COUNTSEQ` -/

/-- A command's step at a line of its `COUNTSEQ`. -/
theorem exec_count_line {l : Label} (hr : countUse i = some r) (hat : s.atLine l [.countseq]) :
    exec i s = ((countLine r l s).within .countseq (afterCountOf i)).outcome := by
  rw [exec_busy hat, lineFlow_count hr]

/-- Line `N1`: the consumer tail is loaded. -/
theorem count_loads (hr : countUse i = some r) (hat : s.atLine .n1 [.countseq]) :
    ∃ t, exec i s = .next t ∧ OnlyOwnPort s t ∧ SameShared s t ∧
      t.lat = { s.lat with ct := s.tailview r .cons } ∧ Continues s t .n2 [.countseq] := by
  rw [exec_count_line hr hat]
  exact ((Updated.refl hat.1).updLat fun x => { x with ct := s.tailview r .cons }).goto .n2 [.countseq]

/-- What line `N2` counts, as a number (rule R176). -/
def State.countNow (s : State) (r : RingId) : Nat :=
  min (s.tailview r .prod - s.lat.ct).toNat (cap s.cfg r).toNat

/-- The state after the load of line `N2`. -/
def State.counted (s : State) (r : RingId) : State :=
  s.updLat fun x => { x with cntv := countOf s.cfg r (s.tailview r .prod) x.ct }

theorem countNow_le (s : State) (r : RingId) : s.countNow r ≤ (cap s.cfg r).toNat := Nat.min_le_right _ _

/-- The count fits in 32 bits. -/
theorem toNat_countNow (s : State) (r : RingId) : (BitVec.ofNat 32 (s.countNow r)).toNat = s.countNow r := by
  rw [BitVec.toNat_ofNat, Nat.mod_eq_of_lt ((countNow_le s r).trans_lt (cap s.cfg r).isLt)]

/-- The clamped difference is the smaller of the difference and the capacity. -/
theorem countOf_eq_countNow (s : State) (r : RingId) :
    countOf s.cfg r (s.tailview r .prod) s.lat.ct = BitVec.ofNat 32 (s.countNow r) := by
  apply BitVec.eq_of_toNat_eq
  rw [toNat_countNow, countOf, State.countNow]
  split
  next h => exact (Nat.min_eq_left (BitVec.le_def.mp h)).symm
  next h => exact (Nat.min_eq_right (Nat.le_of_not_le fun hle => h (BitVec.le_def.mpr hle))).symm

theorem Updated.counted (g : s.granted) (r : RingId) :
    Updated s (s.counted r) { s.lat with cntv := BitVec.ofNat 32 (s.countNow r) } :=
  countOf_eq_countNow s r ▸
    (Updated.refl g).updLat fun x => { x with cntv := countOf s.cfg r (s.tailview r .prod) x.ct }

/-- Line `N2`: the command goes on with the count in the same step. -/
theorem exec_count_n2 (hr : countUse i = some r) (hat : s.atLine .n2 [.countseq]) :
    exec i s = (afterCountOf i (s.counted r)).outcome := exec_count_line hr hat

/-! ### The free space and the trigger -/

/-- What is free besides the count (rule R175). -/
theorem cap_sub_countNow (s : State) (r : RingId) :
    cap s.cfg r - BitVec.ofNat 32 (s.countNow r) = BitVec.ofNat 32 ((cap s.cfg r).toNat - s.countNow r) := by
  apply BitVec.eq_of_toNat_eq
  have hle : BitVec.ofNat 32 (s.countNow r) ≤ cap s.cfg r := by
    rw [BitVec.le_def, toNat_countNow]
    exact countNow_le s r
  rw [BitVec.toNat_sub_of_le hle, toNat_countNow, BitVec.toNat_ofNat,
    Nat.mod_eq_of_lt ((Nat.sub_le _ _).trans_lt (cap s.cfg r).isLt)]

/-- The inline reclaim is begun exactly above `TRIGGER_LIMIT` (spec/43 rule R224). -/
theorem lt_countNow_iff (s : State) (r : RingId) (limit : U32) :
    limit < BitVec.ofNat 32 (s.countNow r) ↔ ¬ s.countNow r ≤ limit.toNat := by
  rw [BitVec.lt_def, toNat_countNow, Nat.not_le]

/-- The call of a reclaim pass (spec/43 rule R222). -/
theorem reclaimCall_outcome {k : State → Flow} {x : Latches} (hk : afterReclaimOf i = some k) (hu : Updated s u x)
    (lim : Limit) : ∃ t, ((reclaimCall lim u).within .reclaimseq k).outcome = .next t ∧ OnlyOwnPort s t ∧
      SameShared u t ∧ AtReclaimLoop i s t { x with lim := lim, freed := 0#32 } :=
  reclaimLoop_outcome hk (hu.updLat fun y => { y with lim := lim, freed := 0#32 })

/-! ### The entry that `D1` builds (spec/43 rule R221) -/

/-- A payload of one element holds that element. -/
theorem payload_elem_ofBytes (bs : List Byte) : (Payload.ofBytes bs).elem bs.length 0 = bs := by
  apply List.ext_getElem
  · exact payload_elem_length _ _ _
  · intro k hk hk'
    simp [Payload.elem, Payload.byte, Payload.ofBytes, List.getD_eq_getElem?_getD, hk']

/-- An entry has the element size of ring 1. -/
theorem entryBytes_length (cfg : Params) (tok : U64) (pl : Payload) (j : Nat) :
    (entryBytes tok (pl.elem cfg.dqEsize.toNat j)).length = esize cfg .defer := by
  rw [entryBytes, List.length_append, leBytes_length, payload_elem_length, esize]

/-- The payload that `D1` gives to the push. -/
def State.entryNext (s : State) : Payload :=
  Payload.ofBytes (entryBytes (s.token + 1#64) (s.lat.src.elem s.cfg.dqEsize.toNat 0))

theorem entryNext_size (s : State) : s.entryNext.size = esize s.cfg .defer := entryBytes_length s.cfg _ _ 0

theorem entryNext_elem (s : State) :
    s.entryNext.elem (esize s.cfg .defer) 0 =
      entryBytes (s.token + 1#64) (s.lat.src.elem s.cfg.dqEsize.toNat 0) := by
  rw [← entryBytes_length s.cfg (s.token + 1#64) s.lat.src 0]
  exact payload_elem_ofBytes _

/-- The state in which `D1` enters `RESERVE`, below the last token and with the queue alive. -/
def State.pushBegun (s : State) : State :=
  (((s.setToken (s.token + 1#64)).updLat fun x => { x with tok := s.token + 1#64 }).updLat fun x =>
    { x with src := Payload.ofBytes (entryBytes x.tok (x.src.elem s.cfg.dqEsize.toNat 0)) }).updLat fun x =>
      { x with n := 1#32, beh := .exact }

theorem Updated.pushBegun (g : s.granted) :
    Updated s s.pushBegun { s.lat with tok := s.token + 1#64, src := s.entryNext, n := 1#32, beh := .exact } :=
  ((((Updated.refl g).shared (v := s.setToken (s.token + 1#64)) rfl rfl rfl rfl rfl).updLat _).updLat _).updLat _

theorem dqEnqBegin_below (hdq : s.dqAlive = true) (hbelow : s.token.toNat < 2 ^ 64 - 1) :
    dqEnqBegin s = .goto (reserveFirst (syncOf s.cfg .defer .prod)) [.ringop, .reserve] s.pushBegun := by
  rw [dqEnqBegin, ifAlive, if_pos hdq, tkinc_below hbelow]
  rfl

end

/-! ### The statements -/

/-- Settles O22: `N1` and `N2` are those of `COUNTSEQ` on ring 0, and the answer follows in the step of `N2`. -/
theorem countLines : Obligations.CountLines := by
  intro i s hi
  have hr : countUse i = some .fifo := by
    obtain rfl | rfl := hi <;> rfl
  refine ⟨count_loads hr, fun hat => ?_⟩
  have hu := Updated.counted hat.1 .fifo
  rw [exec_count_n2 hr hat]
  obtain rfl | rfl := hi
  case inl =>
    obtain ⟨t, hnext, hown, hshared, hlat, hans⟩ := hu.respond .ok (BitVec.ofNat 32 (s.countNow .fifo)) 0#64 []
    refine ⟨t, ?_, hown, hshared, hlat, fun _ => hans, nofun⟩
    simp only [afterCountOf, hu.lat]
    exact hnext
  case inr =>
    obtain ⟨t, hnext, hown, hshared, hlat, hans⟩ :=
      hu.respond .ok (BitVec.ofNat 32 ((cap s.cfg .fifo).toNat - s.countNow .fifo)) 0#64 []
    refine ⟨t, ?_, hown, hshared, hlat, nofun, fun _ => hans⟩
    simp only [afterCountOf, hu.lat, hu.cfg, cap_sub_countNow]
    exact hnext

/-- Settles O33: `D1` issues the token and calls the push of its entry, `N1` and `N2` are those of `COUNTSEQ` on ring 1, and
the answer or the head of the inline reclaim follows in the step of `N2`. -/
theorem dqEnqLines : Obligations.DqEnqLines := by
  intro s
  refine ⟨fun hat hdq hbelow => ?_, count_loads rfl, fun hat => ?_⟩
  · obtain ⟨t, hnext, hown, ⟨hrings, ⟨htok, hacked⟩, hthreads, hflags, hfree⟩, hlat, hcont⟩ :=
      (Updated.pushBegun hat.1).goto (reserveFirst (syncOf s.cfg .defer .prod)) [.ringop, .reserve]
    have htok' : t.token = s.token + 1#64 := htok
    have hexec : exec .dqEnq s = .next t := by
      rw [exec, execDqEnq_d1 hat, dqEnqBegin_below hdq hbelow, hnext]
    have hval : t.token.toNat = s.token.toNat + 1 := by
      rw [htok', BitVec.toNat_add, BitVec.toNat_one (by decide), Nat.mod_eq_of_lt (by omega)]
    refine ⟨t, hexec, hown, hrings, hthreads, hflags, hacked, hfree, hval, ?_, ?_, ?_, hcont⟩
    · rw [hlat, htok']
    · rw [hlat]
      exact entryNext_size s
    · rw [hlat, htok']
      exact entryNext_elem s
  · have hu := Updated.counted hat.1 .defer
    have hline : afterCountOf .dqEnq (s.counted .defer) = dqEnqCounted (s.counted .defer) := rfl
    rw [exec_count_n2 rfl hat, hline, dqEnqCounted, hu.cfg, hu.lat]
    simp only [lt_countNow_iff]
    by_cases hle : s.countNow .defer ≤ s.cfg.triggerLimit.toNat
    · rw [if_neg (not_not_intro hle)]
      obtain ⟨t, hnext, hown, hshared, hafter⟩ := afterReclaimOf_outcome (i := .dqEnq) rfl hu
      exact ⟨t, hnext, hown, hshared, (if_pos hle).mpr hafter⟩
    · rw [if_pos hle]
      obtain ⟨t, hnext, hown, hshared, hloop⟩ := reclaimCall_outcome (i := .dqEnq) rfl hu (.num s.cfg.maxReclaim)
      exact ⟨t, hnext, hown, hshared, (if_neg hle).mpr hloop⟩

end Sys2Proof.Machine
end

section
/-! PROOFS. `CHECKSEQ` line by line (spec/42 rule R202) in every command that runs it: how a line of the check ends, in the words
of the statements, and with it what each line does. -/

namespace Sys2Proof.Machine

section
variable {i : Instr} {st : List Seq} {s u : State} {x : Latches} {l l' : Label}

/-! ### How a line of the check ends -/

/-- `k` is how the command `i` goes on when its check returns, in the words of the statements. -/
def EndsCheck (i : Instr) (k : State → Flow) : Prop :=
  ∀ {s u : State} {x : Latches}, Updated s u x →
    ∃ t, (k u).outcome = .next t ∧ OnlyOwnPort s t ∧ SameShared u t ∧ AfterCheck i s t x

theorem endsCheck_check (tok : U64) (wait : Bool) : EndsCheck (.check tok wait) checkDone := by
  intro s u x hu
  obtain ⟨t, hnext, hown, hshared, hlat, hans⟩ := hu.respond .ok 0#32 (boolValue x.okf) []
  exact ⟨t, by rw [checkDone, hu.lat]; exact hnext, hown, hshared, hlat, hans⟩

theorem endsCheck_sync (tid : U32) : EndsCheck (.sync tid) syncDone := by
  intro s u x hu
  obtain ⟨t, hnext, hown, hshared, hlat, hans⟩ := hu.respond .ok 0#32 x.tok []
  exact ⟨t, by rw [syncDone, hu.lat]; exact hnext, hown, hshared, hlat, hans⟩

/-- The check of a reclaim pass is followed by `X2` or by the cancel (spec/43 rule R222). -/
theorem endsCheck_reclaim {k : State → Flow} (hk : afterReclaimOf i = some k) :
    EndsCheck i fun u => (reclaimChecked u).within .reclaimseq k := by
  have hafter : ∀ {s t : State} {x : Latches}, t.lat = x →
      (if x.okf then Continues s t .x2 [.reclaimseq] else Continues s t .h5 [.reclaimseq, .cancel]) →
      AfterCheck i s t x := by
    intro s t x hlat hcont
    cases i <;> cases hk <;> exact ⟨hlat, hcont⟩
  intro s u x hu
  simp only [reclaimChecked, hu.lat]
  by_cases hok : x.okf = true
  · rw [if_pos hok, Flow.within_goto]
    obtain ⟨t, hnext, hown, hshared, hlat, hcont⟩ := hu.goto .x2 [.reclaimseq]
    exact ⟨t, hnext, hown, hshared, hafter hlat (by rwa [if_pos hok])⟩
  · rw [if_neg hok, Flow.within_goto]
    obtain ⟨t, hnext, hown, hshared, hlat, hcont⟩ := hu.goto .h5 [.reclaimseq, .cancel]
    exact ⟨t, hnext, hown, hshared, hafter hlat (by rwa [if_neg hok])⟩

/-- How a command that runs `CHECKSEQ` takes it up and goes on after it. -/
theorem exists_runsCheck (hi : checkUse i = some st) : ∃ k, RunsCheck i st k ∧ EndsCheck i k := by
  cases i <;> cases hi
  case check tok wait => exact ⟨_, runsCheck_own rfl, endsCheck_check tok wait⟩
  case sync tid => exact ⟨_, runsCheck_own rfl, endsCheck_sync tid⟩
  case dqEnq => exact ⟨_, runsCheck_reclaim rfl, endsCheck_reclaim rfl⟩
  case dqReclaim n => exact ⟨_, runsCheck_reclaim rfl, endsCheck_reclaim rfl⟩
  case dqDelete => exact ⟨_, runsCheck_reclaim rfl, endsCheck_reclaim rfl⟩

/-- A line that goes on within the check. -/
theorem check_goes (hi : checkUse i = some st) (hat : s.atLine l st) (hu : Updated s u x)
    (h : checkLine l s = .goto l' [] u) :
    ∃ t, exec i s = .next t ∧ OnlyOwnPort s t ∧ SameShared u t ∧ t.lat = x ∧ Continues s t l' st := by
  obtain ⟨k, hrun, -⟩ := exists_runsCheck hi
  rw [exec_busy hat, hrun.goto h]
  exact hu.goto l' st

/-- A line that ends the check. -/
theorem check_returns (hi : checkUse i = some st) (hat : s.atLine l st) (hu : Updated s u x)
    (h : checkLine l s = .ret u) :
    ∃ t, exec i s = .next t ∧ OnlyOwnPort s t ∧ SameShared u t ∧ AfterCheck i s t x := by
  obtain ⟨k, hrun, hend⟩ := exists_runsCheck hi
  rw [exec_busy hat, hrun.ret h]
  exact hend hu

/-- A line that comes to `next` of rule R202. -/
theorem check_comes_to_next (hi : checkUse i = some st) (hat : s.atLine l st) (hu : Updated s u x)
    (h : checkLine l s = checkNext u) :
    ∃ t, exec i s = .next t ∧ OnlyOwnPort s t ∧ SameShared u t ∧ AtCheckNext i st s t x := by
  have hu' := hu.updLat fun y => { y with wi := y.wi + 1#32 }
  simp only [checkNext, hu.lat, hu'.lat, hu.cfg] at h
  unfold AtCheckNext
  by_cases hbm : x.bm ≠ 0#64
  · rw [if_neg hbm] at h
    simp only [if_pos hbm]
    exact check_goes hi hat hu h
  · rw [if_pos (not_not.mp hbm)] at h
    simp only [if_neg hbm]
    by_cases hlast : (x.wi + 1#32).toNat ≠ nwords s.cfg
    · rw [if_neg hlast] at h
      simp only [if_pos hlast]
      exact (check_goes hi hat hu' h :)
    · simp only [if_pos (not_not.mp hlast), checkFin, hu'.lat] at h
      simp only [if_neg hlast]
      by_cases hseen : x.seen = true
      · rw [if_pos hseen] at h
        simp only [if_pos hseen]
        exact (check_goes hi hat hu' h :)
      · rw [if_neg hseen] at h
        simp only [if_neg hseen]
        exact (check_returns hi hat (hu'.updLat fun y => { y with okf := true }) h :)

/-! ### The four lines -/

/-- Line `V1`: the fast path, or the start of the scan. -/
theorem check_v1 (hi : checkUse i = some st) (hat : s.atLine .v1 st) :
    ∃ t, exec i s = .next t ∧ OnlyOwnPort s t ∧ SameShared s t ∧
      if s.lat.t ≤ s.acked then AfterCheck i s t { s.lat with okf := true }
      else t.lat = { s.lat with wi := 0#32, seen := false } ∧ Continues s t .v2 st := by
  by_cases hfast : s.lat.t ≤ s.acked
  · simp only [if_pos hfast]
    exact (check_returns hi hat ((Updated.refl hat.1).updLat fun y => { y with okf := true }) (if_pos hfast) :)
  · simp only [if_neg hfast]
    exact (check_goes hi hat ((Updated.refl hat.1).updLat fun y => { y with wi := 0#32, seen := false })
      (if_neg hfast) :)

/-- Line `V2`: a bitmap word is loaded. -/
theorem check_v2 (hi : checkUse i = some st) (hat : s.atLine .v2 st) :
    ∃ t, exec i s = .next t ∧ OnlyOwnPort s t ∧ SameShared s t ∧
      AtCheckNext i st s t { s.lat with bm := s.bitmap.getD s.lat.wi.toNat 0#64 } :=
  (check_comes_to_next hi hat
    ((Updated.refl hat.1).updLat fun y => { y with bm := s.bitmap.getD y.wi.toNat 0#64 }) rfl :)

/-- Line `V3`: the thread of the lowest bit of the working copy is examined. -/
theorem check_v3 (hi : checkUse i = some st) (hat : s.atLine .v3 st) :
    ∃ t, exec i s = .next t ∧ OnlyOwnPort s t ∧ SameShared s t ∧
      if s.cntOf s.lat.scanned < s.lat.t then
        if s.lat.wt = true then t.lat = s.lat ∧ Continues s t .v2 st
        else AfterCheck i s t { s.lat with okf := false }
      else AtCheckNext i st s t (s.lat.passThread (s.cntOf s.lat.scanned)) := by
  have hu := Updated.refl hat.1
  have hline : checkLine .v3 s = checkThread s := rfl
  simp only [checkThread] at hline
  by_cases hlag : s.cntOf s.lat.scanned < s.lat.t
  · rw [if_pos hlag] at hline
    simp only [if_pos hlag]
    by_cases hwt : s.lat.wt = true
    · rw [if_pos hwt] at hline
      simp only [if_pos hwt]
      exact check_goes hi hat hu hline
    · rw [if_neg hwt] at hline
      simp only [if_neg hwt]
      exact (check_returns hi hat (hu.updLat fun y => { y with okf := false }) hline :)
  · rw [if_neg hlag] at hline
    simp only [if_neg hlag]
    exact (check_comes_to_next hi hat (hu.updLat fun y => y.passThread (s.cntOf s.lat.scanned)) hline :)

/-- Line `V4`: `ACKED_TOKEN` is raised to `L.MINC` (rule R204). -/
theorem check_v4 (hi : checkUse i = some st) (hat : s.atLine .v4 st) :
    ∃ t, exec i s = .next t ∧ OnlyOwnPort s t ∧ SameShared (s.maxAcked s.lat.minc) t ∧
      AfterCheck i s t { s.lat with okf := true } :=
  (check_returns hi hat
    (((Updated.refl hat.1).shared (v := s.maxAcked s.lat.minc) rfl rfl rfl rfl rfl).updLat fun y =>
      { y with okf := true }) rfl :)

end

/-! ### The statement -/

/-- The lowest bit of a word is the one that is set with none below it. -/
theorem lowestSet_eq {w : U64} {j : Nat} (hset : w.getLsbD j = true) (hlow : ∀ j', j' < j → w.getLsbD j' = false) :
    lowestSet w = j := by
  have hne : w ≠ 0#64 := by
    rintro rfl
    simp at hset
  obtain ⟨-, hset', hlow'⟩ := lowestSet_spec hne
  rcases Nat.lt_trichotomy (lowestSet w) j with hlt | heq | hgt
  · exact absurd hset' (by simp [hlow _ hlt])
  · exact heq
  · exact absurd hset (by simp [hlow' _ hgt])

/-- A thread that passes, in the words of rule R202. -/
theorem passThread_eq (x : Latches) (c : U64) :
    x.passThread c =
      { x with
        minc := if x.seen = false ∨ c < x.minc then c else x.minc
        seen := true
        bm := x.bm &&& ~~~(1#64 <<< lowestSet x.bm) } := by
  simp only [Latches.passThread, bit64, Bool.or_eq_true, Bool.not_eq_true', decide_eq_true_eq]

theorem toNat_maxAcked (s : State) (v : U64) : (s.maxAcked v).acked.toNat = max s.acked.toNat v.toNat := by
  simp only [State.maxAcked, BitVec.lt_def]
  split <;> omega

/-- Settles O30: the four lines of `CHECKSEQ` within each of the commands that run it. -/
theorem checkLines : Obligations.CheckLines := by
  intro i st s hi
  refine ⟨check_v1 hi, check_v2 hi, fun hat j _ hset hlow => ?_, fun hat => ?_⟩
  · have hj : lowestSet s.lat.bm = j := lowestSet_eq hset hlow
    have hv3 := check_v3 hi hat
    simp only [passThread_eq, Latches.scanned, hj] at hv3
    exact hv3
  · obtain ⟨t, hnext, hown, ⟨hrings, ⟨htoken, hacked⟩, hthreads, hflags, hfree⟩, hafter⟩ := check_v4 hi hat
    exact ⟨t, hnext, hown, hrings, hthreads, hflags, hfree, htoken, hacked ▸ toNat_maxAcked s _, hafter⟩

end Sys2Proof.Machine
end

section
/-! PROOFS. The lines of the QSBR commands (spec/42 rules R192 to R201), each as an update of the QSBR registers followed by an
answer or by the next line. -/

namespace Sys2Proof.Machine

section
variable {s t u v : State} {x : Latches}

/-! ### The per-thread registers of two states -/

theorem cntOf_of_cnt (h : t.cnt = s.cnt) (i : Nat) : t.cntOf i = s.cntOf i := by rw [State.cntOf, State.cntOf, h]

theorem lockOf_of_lockcnt (h : t.lockcnt = s.lockcnt) (i : Nat) : t.lockOf i = s.lockOf i := by
  rw [State.lockOf, State.lockOf, h]

theorem regd_of_bitmap (h : t.bitmap = s.bitmap) (i : Nat) : t.regd i = s.regd i := by rw [State.regd, State.regd, h]

/-! ### How a line of a command's own code ends -/

/-- The line answers with a status alone. -/
theorem Updated.answer (h : Updated s u x) (st : Status) :
    ∃ t, (Machine.answer st u).outcome = .next t ∧ OnlyOwnPort s t ∧ SameShared u t ∧ t.lat = x ∧
      Answered s t st 0#32 0#64 [] := h.respond st _ _ _

/-- A change of shared state alone is answered with `OK`. -/
theorem answer_ok (g : s.granted) (h1 : v.cfg = s.cfg) (h2 : v.cur = s.cur) (h3 : v.sched = s.sched)
    (h4 : v.tick = s.tick) (h5 : v.ports = s.ports) :
    ∃ t, (Machine.answer .ok v).outcome = .next t ∧ OnlyOwnPort s t ∧ SameShared v t ∧ t.lat = s.lat ∧
      Answered s t .ok 0#32 0#64 [] := ((Updated.refl g).shared h1 h2 h3 h4 h5).answer .ok

/-- A refusal changes nothing but the port. -/
theorem answer_refused (g : s.granted) (st : Status) :
    ∃ t, (Machine.answer st s).outcome = .next t ∧ OnlyOwnPort s t ∧ t.lat = s.lat ∧ SameShared s t ∧
      Answered s t st 0#32 0#64 [] := by
  obtain ⟨t, hnext, hown, hshared, hlat, hans⟩ := (Updated.refl g).answer st
  exact ⟨t, hnext, hown, hlat, hshared, hans⟩

end

/-! ### Registration -/

/-- Settles O23: `G1` refuses a registered or a locked thread, else stores its counter, its bit and the thread count. -/
theorem thrRegLine : Obligations.ThrRegLine := by
  rintro tid s hat ⟨hcnt, -, hbit⟩
  rw [exec, execThrReg, execThread_line hat, regLine]
  by_cases hr : s.regd tid.toNat = true
  · simp only [if_pos hr]
    exact answer_refused hat.1 .eAlready
  simp only [if_neg hr]
  by_cases hlock : s.lockOf tid.toNat ≠ 0#32
  · simp only [if_pos hlock]
    exact answer_refused hat.1 .eLocked
  simp only [if_neg hlock]
  obtain ⟨t, hnext, hown, ⟨hrings, htokens, ⟨hbits, hnum, hcnts, hlocks⟩, hflags, hfree⟩, hlat, hans⟩ :=
    answer_ok (v := ((s.setCnt tid.toNat s.token).setRegd tid.toNat).setNumThreads (s.numThreads + 1#32))
      hat.1 rfl rfl rfl rfl rfl
  obtain ⟨hcntSelf, hcntOther⟩ := setCnt_cntOf s tid.toNat s.token hcnt
  obtain ⟨hregSelf, hregOther⟩ := setRegd_regd (s.setCnt tid.toNat s.token) tid.toNat hbit
  exact ⟨t, hnext, hown, hlat, hans, hrings, htokens, hflags, hfree, hlocks, hnum,
    (cntOf_of_cnt hcnts _).trans hcntSelf, (regd_of_bitmap hbits _).trans hregSelf,
    fun j hj => ⟨(cntOf_of_cnt hcnts j).trans (hcntOther j hj), (regd_of_bitmap hbits j).trans (hregOther j hj)⟩,
    by simp [hcnts], by simp [hbits]⟩

/-- Settles O24: `U1` refuses an unregistered or a locked thread, else clears its bit and counts it off. -/
theorem thrUnregLine : Obligations.ThrUnregLine := by
  rintro tid s hat ⟨-, -, hbit⟩
  rw [exec, execThrUnreg, execThread_line hat, unregLine]
  by_cases hr : s.regd tid.toNat = false
  · simp only [hr, Bool.not_false, if_true]
    exact answer_refused hat.1 .eNotreg
  have hno : ¬ (!s.regd tid.toNat) = true := by simpa using hr
  simp only [if_neg hr, if_neg hno]
  by_cases hlock : s.lockOf tid.toNat ≠ 0#32
  · simp only [if_pos hlock]
    exact answer_refused hat.1 .eLocked
  simp only [if_neg hlock]
  obtain ⟨t, hnext, hown, ⟨hrings, htokens, ⟨hbits, hnum, hcnts, hlocks⟩, hflags, hfree⟩, hlat, hans⟩ :=
    answer_ok (v := (s.clearRegd tid.toNat).setNumThreads (s.numThreads - 1#32)) hat.1 rfl rfl rfl rfl rfl
  obtain ⟨hregSelf, hregOther⟩ := clearRegd_regd s tid.toNat hbit
  exact ⟨t, hnext, hown, hlat, hans, hrings, htokens, hflags, hfree, hlocks, hcnts, hnum,
    (regd_of_bitmap hbits _).trans hregSelf, fun j hj => (regd_of_bitmap hbits j).trans (hregOther j hj), by simp [hbits]⟩

/-! ### Reports -/

/-- Settles O25: `Q1` loads the token and refuses an unregistered or a locked thread, `Q2` stores what was loaded. -/
theorem quiescentLines : Obligations.QuiescentLines := by
  rintro tid s ⟨hcnt, -, -⟩
  refine ⟨fun hat => ?_, fun hat => ?_⟩
  · have hu := (Updated.refl hat.1).updLat fun l => { l with qt := s.token }
    rw [exec, execQuiescent_q1 hat]
    simp only [quiescentProbe]
    by_cases hr : s.regd tid.toNat = false
    · simp only [hr, Bool.not_false, if_true]
      exact (hu.answer .eNotreg :)
    have hno : ¬ (!s.regd tid.toNat) = true := by simpa using hr
    simp only [if_neg hr, if_neg hno]
    by_cases hlock : s.lockOf tid.toNat ≠ 0#32
    · simp only [if_pos hlock]
      exact (hu.answer .eLocked :)
    · simp only [if_neg hlock]
      exact (hu.goto .q2 [] :)
  · obtain ⟨t, hnext, hown, ⟨hrings, htokens, ⟨hbits, hnum, hcnts, hlocks⟩, hflags, hfree⟩, hlat, hans⟩ :=
      answer_ok (v := s.setCnt tid.toNat s.lat.qt) hat.1 rfl rfl rfl rfl rfl
    obtain ⟨hself, hother⟩ := setCnt_cntOf s tid.toNat s.lat.qt hcnt
    rw [exec, execQuiescent_q2 hat]
    exact ⟨t, hnext, hown, hlat, hans, hrings, htokens, hflags, hfree, hbits, hnum, hlocks,
      (cntOf_of_cnt hcnts _).trans hself, fun j hj => (cntOf_of_cnt hcnts j).trans (hother j hj), by simp [hcnts]⟩

/-! ### Tokens -/

section
variable {s u : State} {x : Latches}

/-- The state in which `TKINC` has issued a token, below the last one (rule R198). -/
def State.issued (s : State) : State :=
  (s.setToken (s.token + 1#64)).updLat fun l => { l with tok := s.token + 1#64 }

theorem Updated.issued (h : Updated s u x) : Updated s u.issued { x with tok := u.token + 1#64 } :=
  (h.shared (v := u.setToken (u.token + 1#64)) rfl rfl rfl rfl rfl).updLat fun l => { l with tok := u.token + 1#64 }

theorem toNat_token_succ (h : s.token.toNat < 2 ^ 64 - 1) : (s.token + 1#64).toNat = s.token.toNat + 1 := by
  rw [BitVec.toNat_add, BitVec.toNat_one (by decide), Nat.mod_eq_of_lt (by omega)]

end

/-- Settles O26: `A1` is `TKINC` and its answer. -/
theorem startLine : Obligations.StartLine := by
  intro s hat
  have hu := Updated.refl hat.1
  rw [exec, execStart_a1 hat]
  by_cases hbelow : s.token.toNat < 2 ^ 64 - 1
  · obtain ⟨t, hnext, hown, ⟨hrings, ⟨htoken, hacked⟩, hthreads, ⟨hstatus, hfault⟩, hfree⟩, hlat, hans⟩ :=
      hu.issued.respond .ok 0#32 (s.token + 1#64) []
    have htok : t.token = s.token + 1#64 := htoken
    refine ⟨t, ?_, hown, hrings, hthreads, hacked, hstatus, hfree, ?_⟩
    · rw [← hnext, tkinc_below hbelow]
      change (Flow.ended (s.issued.respond .ok 0#32 s.issued.lat.tok)).outcome = _
      rw [hu.issued.lat]
      rfl
    · rw [if_pos hbelow, htok]
      exact ⟨toNat_token_succ hbelow, hfault, hlat, hans⟩
  · obtain ⟨t, hnext, hown, ⟨hrings, ⟨htoken, hacked⟩, hthreads, ⟨hstatus, hfault⟩, hfree⟩, hlat, hans⟩ :=
      hu.raise .tokwrap
    have hlast : s.token.toNat = 2 ^ 64 - 1 := by omega
    refine ⟨t, by rw [tkinc_last hlast, hnext], hown, hrings, hthreads, hacked, hstatus, hfree, ?_⟩
    rw [if_neg hbelow]
    exact ⟨htoken, hfault, hlat, hans⟩

/-- The caller of `SYNC` is a reader (rule R197). -/
abbrev State.isReader (s : State) (tid : U32) : Bool := decide (tid < s.cfg.maxThreads) && s.regd tid.toNat

/-- `Y1` once it is known whether a reader is inside its own critical section. -/
theorem syncBegin_eq (tid : U32) (s : State) :
    syncBegin tid s =
      if s.isReader tid = true ∧ s.lockOf tid.toNat ≠ 0#32 then
        answer .eLocked (s.updLat fun l => { l with rdr := s.isReader tid })
      else tkinc (s.updLat fun l => { l with rdr := s.isReader tid }) fun u =>
        if u.lat.rdr then .goto .y2 [] u else syncCheck u := by
  simp only [syncBegin, Bool.and_eq_true, decide_eq_true_eq]

/-- The end of a line that finds the last token issued (rule R199). -/
theorem Updated.raise_tokwrap {s u : State} {x : Latches} (hu : Updated s u x) :
    ∃ t, (raiseFault .tokwrap u).outcome = .next t ∧ OnlyOwnPort s t ∧ SameRings u t ∧ SameTokens u t ∧
      SameThreads u t ∧ t.status = u.status ∧ t.freech = u.freech ∧ t.fault = u.fault ||| 4#64 ∧
      Answered s t .eFault 0#32 0#64 [] := by
  obtain ⟨t, hnext, hown, ⟨hrings, htokens, hthreads, ⟨hstatus, hfault⟩, hfree⟩, -, hans⟩ := hu.raise .tokwrap
  exact ⟨t, hnext, hown, hrings, htokens, hthreads, hstatus, hfree, hfault, hans⟩

/-- Settles O27: `TKINC` at the last token raises the fault in each of the three lines that call it. -/
theorem tokenNeverWraps : Obligations.TokenNeverWraps := by
  intro i s hlast hat
  rcases hat with ⟨rfl, hat⟩ | ⟨tid, rfl, hat, hfree⟩ | ⟨rfl, hat, halive⟩
  · rw [exec, execStart_a1 hat, tkinc_last hlast]
    exact (Updated.refl hat.1).raise_tokwrap
  · have hno : ¬ (s.isReader tid = true ∧ s.lockOf tid.toNat ≠ 0#32) := by
      rintro ⟨hreader, hlock⟩
      obtain ⟨hlt, hreg⟩ := Bool.and_eq_true_iff.mp hreader
      exact hfree ⟨of_decide_eq_true hlt, hreg, hlock⟩
    rw [exec, execSync_y1 hat, syncBegin_eq, if_neg hno,
      tkinc_last (s := s.updLat fun l => { l with rdr := s.isReader tid }) hlast]
    exact (((Updated.refl hat.1).updLat fun l => { l with rdr := s.isReader tid }).raise_tokwrap :)
  · rw [exec, execDqEnq_d1 hat, dqEnqBegin, ifAlive, if_pos halive, tkinc_last hlast]
    exact (Updated.refl hat.1).raise_tokwrap

/-! ### Locks -/

/-- A new lock count is stored and answered with `OK`; no other register changes. -/
theorem lock_stored {s : State} {i : Nat} (g : s.granted) (hlen : i < s.lockcnt.length) (v : U32) :
    ∃ t, (answer .ok (s.setLock i v)).outcome = .next t ∧ OnlyOwnPort s t ∧ t.lat = s.lat ∧
      Answered s t .ok 0#32 0#64 [] ∧ SameRings s t ∧ SameTokens s t ∧ SameFlags s t ∧ t.freech = s.freech ∧
      t.bitmap = s.bitmap ∧ t.numThreads = s.numThreads ∧ t.cnt = s.cnt ∧ t.lockOf i = v ∧
      (∀ j, j ≠ i → t.lockOf j = s.lockOf j) ∧ t.lockcnt.length = s.lockcnt.length := by
  obtain ⟨t, hnext, hown, ⟨hrings, htokens, ⟨hbits, hnum, hcnts, hlocks⟩, hflags, hfree⟩, hlat, hans⟩ :=
    answer_ok (v := s.setLock i v) g rfl rfl rfl rfl rfl
  obtain ⟨hself, hother⟩ := setLock_lockOf s i v hlen
  exact ⟨t, hnext, hown, hlat, hans, hrings, htokens, hflags, hfree, hbits, hnum, hcnts,
    (lockOf_of_lockcnt hlocks i).trans hself, fun j hj => (lockOf_of_lockcnt hlocks j).trans (hother j hj),
    by simp [hlocks]⟩

/-- Settles O28: `L1` and `L2` store the new lock count, unless it is at its end. -/
theorem lockLines : Obligations.LockLines := by
  rintro tid s ⟨-, hlen, -⟩
  have hmax : s.lockOf tid.toNat = 0xFFFFFFFF#32 ↔ (s.lockOf tid.toNat).toNat = 2 ^ 32 - 1 := BitVec.toNat_eq
  have hzero : s.lockOf tid.toNat = 0#32 ↔ (s.lockOf tid.toNat).toNat = 0 := BitVec.toNat_eq
  refine ⟨fun hat => ?_, fun hat => ?_⟩
  · rw [exec, execRdLock, execThread_line hat, lockLine]
    simp only [hmax]
    by_cases hend : (s.lockOf tid.toNat).toNat = 2 ^ 32 - 1
    · simp only [if_pos hend]
      exact answer_refused hat.1 .eLockrange
    · simp only [if_neg hend]
      obtain ⟨t, hnext, hown, hlat, hans, hrings, htokens, hflags, hfree, hbits, hnum, hcnts, hself, hrest⟩ :=
        lock_stored hat.1 hlen (s.lockOf tid.toNat + 1#32)
      exact ⟨t, hnext, hown, hlat, hans, hrings, htokens, hflags, hfree, hbits, hnum, hcnts, by rw [hself]; bv_omega, hrest⟩
  · rw [exec, execRdUnlock, execThread_line hat, unlockLine]
    simp only [hzero]
    by_cases hend : (s.lockOf tid.toNat).toNat = 0
    · simp only [if_pos hend]
      exact answer_refused hat.1 .eLockrange
    · simp only [if_neg hend]
      obtain ⟨t, hnext, hown, hlat, hans, hrings, htokens, hflags, hfree, hbits, hnum, hcnts, hself, hrest⟩ :=
        lock_stored hat.1 hlen (s.lockOf tid.toNat - 1#32)
      exact ⟨t, hnext, hown, hlat, hans, hrings, htokens, hflags, hfree, hbits, hnum, hcnts, by rw [hself]; bv_omega, hrest⟩

/-! ### `SYNC` -/

/-- `SYNC` enters its check: the token it issued is latched as the one to wait for. -/
theorem syncCheck_outcome {s u : State} {x : Latches} (hu : Updated s u x) :
    ∃ t, (syncCheck u).outcome = .next t ∧ OnlyOwnPort s t ∧ SameShared u t ∧
      t.lat = { x with t := x.tok, wt := true } ∧ Continues s t .v1 [.checkseq] :=
  ((hu.updLat fun l => { l with t := l.tok, wt := true }).goto .v1 [.checkseq] :)

/-- Line `Y1` of a caller that is or is not a reader; the last token is shut out, unless it is not reached. -/
theorem sync_y1 {tid : U32} {s : State} {rdr : Bool} (hat : s.atLine .y1 []) (hr : s.isReader tid = rdr)
    (htok : s.token.toNat < 2 ^ 64 - 1 ∨ (rdr = true ∧ s.lockOf tid.toNat ≠ 0#32)) :
    ∃ t, exec (.sync tid) s = .next t ∧ OnlyOwnPort s t ∧ SameRings s t ∧ SameThreads s t ∧ SameFlags s t ∧
      t.acked = s.acked ∧ t.freech = s.freech ∧
      if rdr = true ∧ s.lockOf tid.toNat ≠ 0#32 then
        t.token = s.token ∧ t.lat = { s.lat with rdr := rdr } ∧ Answered s t .eLocked 0#32 0#64 []
      else
        t.token.toNat = s.token.toNat + 1 ∧
          if rdr = true then t.lat = { s.lat with rdr := rdr, tok := t.token } ∧ Continues s t .y2 []
          else
            t.lat = { s.lat with rdr := rdr, tok := t.token, t := t.token, wt := true } ∧
              Continues s t .v1 [.checkseq] := by
  have hu := (Updated.refl hat.1).updLat fun l => { l with rdr := rdr }
  rw [exec, execSync_y1 hat, syncBegin_eq, hr]
  by_cases hlocked : rdr = true ∧ s.lockOf tid.toNat ≠ 0#32
  · simp only [if_pos hlocked]
    obtain ⟨t, hnext, hown, ⟨hrings, ⟨htoken, hacked⟩, hthreads, hflags, hfree⟩, hlat, hans⟩ := hu.answer .eLocked
    exact ⟨t, hnext, hown, hrings, hthreads, hflags, hacked, hfree, htoken, hlat, hans⟩
  have hbelow : s.token.toNat < 2 ^ 64 - 1 := htok.resolve_right hlocked
  have hi := hu.issued
  have hissued : ∀ {t : State}, t.token = s.token + 1#64 → t.token.toNat = s.token.toNat + 1 := fun h =>
    h ▸ toNat_token_succ hbelow
  simp only [if_neg hlocked]
  rw [tkinc_below (s := s.updLat fun l => { l with rdr := rdr }) hbelow]
  change ∃ t, (if (s.updLat fun l => { l with rdr := rdr }).issued.lat.rdr then
    Flow.goto .y2 [] (s.updLat fun l => { l with rdr := rdr }).issued
    else syncCheck (s.updLat fun l => { l with rdr := rdr }).issued).outcome = _ ∧ _
  simp only [hi.lat]
  by_cases hrdr : rdr = true
  · simp only [if_pos hrdr]
    obtain ⟨t, hnext, hown, ⟨hrings, ⟨htoken, hacked⟩, hthreads, hflags, hfree⟩, hlat, hcont⟩ := hi.goto .y2 []
    exact ⟨t, hnext, hown, hrings, hthreads, hflags, hacked, hfree, hissued htoken, by rw [hlat, htoken]; rfl, hcont⟩
  · simp only [if_neg hrdr]
    obtain ⟨t, hnext, hown, ⟨hrings, ⟨htoken, hacked⟩, hthreads, hflags, hfree⟩, hlat, hcont⟩ := syncCheck_outcome hi
    exact ⟨t, hnext, hown, hrings, hthreads, hflags, hacked, hfree, hissued htoken, by rw [hlat, htoken]; rfl, hcont⟩

/-- Settles O29: `Y1` refuses a reader inside its critical section and else issues a token, `Y2` loads the token and `Y3`
stores it, and the check is entered in the step of `Y1` or of `Y3`. -/
theorem syncLines : Obligations.SyncLines := by
  intro tid s
  refine ⟨fun hat => sync_y1 hat rfl, fun hat => ?_, fun hat ⟨hcnt, _⟩ => ?_⟩
  · rw [exec, execSync_y2 hat]
    exact (((Updated.refl hat.1).updLat fun l => { l with qt := s.token }).goto .y3 [] :)
  · obtain ⟨t, hnext, hown, ⟨hrings, htokens, ⟨hbits, hnum, hcnts, hlocks⟩, hflags, hfree⟩, hlat, hcont⟩ :=
      syncCheck_outcome ((Updated.refl hat.1).shared (v := s.setCnt tid.toNat s.lat.qt) rfl rfl rfl rfl rfl)
    obtain ⟨hself, hother⟩ := setCnt_cntOf s tid.toNat s.lat.qt hcnt
    rw [exec, execSync_y3 hat]
    exact ⟨t, hnext, hown, hrings, htokens, hflags, hfree, hbits, hnum, hlocks, (cntOf_of_cnt hcnts _).trans hself,
      fun j hj => (cntOf_of_cnt hcnts j).trans (hother j hj), by simp [hcnts], hlat, hcont⟩

end Sys2Proof.Machine
end

section
/-! PROOFS. Grace periods (spec/42 rule R191): what one step does to the registered threads and to their counters, and that a
token once complete stays complete. -/

namespace Sys2Proof.Machine

/-- From `s` to `t` no register file is resized, `TOKEN` does not go back, and a thread registered in `t` was so in `s` or has
joined with its counter at `TOKEN` (rules R27, R192). -/
structure Progress (s t : State) : Prop where
  words : t.bitmap.length = s.bitmap.length
  token : s.token ≤ t.token
  joins : ∀ i, t.regd i = true → s.regd i = true ∨ t.cntOf i = s.token

section
variable {s t u : State} {i : Instr}

theorem Progress.of_same (hb : t.bitmap = s.bitmap) (ht : t.token = s.token) : Progress s t :=
  ⟨by rw [hb], BitVec.le_of_eq ht.symm, fun i hr => .inl ((regd_of_bitmap hb i).symm.trans hr)⟩

/-- The registers of `t` are those of `u`. -/
theorem Progress.of_regs (h : SameRegs u t) (hu : Progress s u) : Progress s t := by
  obtain ⟨⟨htoken, -⟩, ⟨hbits, -, hcnts, -⟩, -⟩ := h
  refine ⟨hbits ▸ hu.words, htoken ▸ hu.token, fun i hr => ?_⟩
  rw [cntOf_of_cnt hcnts]
  exact hu.joins i ((regd_of_bitmap hbits i).symm.trans hr)

/-- Thread `n` joins with its counter at `TOKEN` (rule R192). -/
theorem Progress.register {n : Nat} (hcnt : n < s.cnt.length) (hbit : n < 64 * s.bitmap.length) :
    Progress s (((s.setCnt n s.token).setRegd n).setNumThreads (s.numThreads + 1#32)) := by
  obtain ⟨-, hother⟩ := setRegd_regd (s.setCnt n s.token) n hbit
  refine ⟨by simp, BitVec.le_refl _, fun j hr => ?_⟩
  by_cases hj : j = n
  · subst hj
    exact .inr (setCnt_cntOf s j s.token hcnt).1
  · exact .inl ((hother j hj).symm.trans hr)

/-- Thread `n` leaves (rule R193). -/
theorem Progress.unregister {n : Nat} (hbit : n < 64 * s.bitmap.length) :
    Progress s ((s.clearRegd n).setNumThreads (s.numThreads - 1#32)) := by
  obtain ⟨hself, hother⟩ := clearRegd_regd s n hbit
  refine ⟨by simp, BitVec.le_refl _, fun j hr => .inl ?_⟩
  by_cases hj : j = n
  · subst hj
    exact absurd (hself.symm.trans hr) nofun
  · exact (hother j hj).symm.trans hr

theorem token_le_succ (h : s.token.toNat < 2 ^ 64 - 1) : s.token ≤ s.token + 1#64 := by
  rw [BitVec.le_def, toNat_token_succ h]
  exact Nat.le_succ _

theorem exec_progress (hs : s.Sound) (hruns : Runs i s) (h : exec i s = .next t) : Progress s t := by
  obtain ⟨-, hwords, hcnt, -, -, -, hports⟩ := hs
  cases exec_regEffect h with
  | same h | fault _ _ h _ | acked _ _ _ h | report _ _ h | lock _ _ _ h | kill _ _ h =>
    exact .of_regs h.regs (.of_same rfl rfl)
  | token _ hbelow _ h => exact .of_regs h.regs ⟨rfl, token_le_succ hbelow, fun _ => .inl⟩
  | register tid hi hat _ hfrom =>
    subst hi
    obtain ⟨-, -, hop, -⟩ := hruns.busy hports hat
    obtain ⟨hlt, hbit⟩ := tid_lt_bitmap hwords hop
    exact .of_regs hfrom.regs (.register (hcnt ▸ hlt) hbit)
  | unregister tid hi hat _ hfrom =>
    subst hi
    obtain ⟨-, -, hop, -⟩ := hruns.busy hports hat
    exact .of_regs hfrom.regs (.unregister (tid_lt_bitmap hwords hop).2)

theorem step_progress (hs : s.Sound) (hreset : ∀ cfg, (nextEvent s).1 ≠ some (.reset cfg)) (h : step s = .next t) :
    Progress s t := by
  cases step_cases h with
  | still sched tick freech => exact .of_same rfl rfl
  | touch p q q' cur sched tick hq hphase hlat => exact .of_same rfl rfl
  | reset cfg sched tick hev => exact absurd hev (hreset cfg)
  | run i p sched tick _ hruns hexec =>
    obtain ⟨hwords, htoken, hjoins⟩ := exec_progress (s := s.withOwn p sched tick) hs hruns hexec
    exact ⟨hwords, htoken, hjoins⟩

/-- A thread registered after the step has reported `tok` if it had before, or if it has just joined. -/
theorem Progress.reported {tok : U64} {j : Nat} (h : Progress s t) (hk : CountersKept s t) (htok : tok ≤ s.token)
    (hr : t.regd j = true) (hs : s.regd j = true → tok ≤ s.cntOf j) : tok ≤ t.cntOf j := by
  by_cases hrs : s.regd j = true
  · exact BitVec.le_trans (hs hrs) (hk j hrs hr)
  · rwa [(h.joins j hr).resolve_left hrs]

theorem Progress.complete {tok : U64} (h : Progress s t) (hk : CountersKept s t) (htok : tok ≤ s.token)
    (hc : s.Complete tok) : t.Complete tok :=
  fun j hj hr => h.reported hk htok hr (hc j (h.words ▸ hj))

end

/-- Settles O58: a thread that joins does so at `TOKEN`, the others keep their counters. -/
theorem completeStays : Obligations.CompleteStays :=
  ⟨fun _ _ _ hs htok hc hreset h hk => (step_progress hs hreset h).complete hk htok hc,
    fun _ _ _ _ => BitVec.le_def.mpr (Nat.zero_le _),
    fun _ _ hnone j _ hr => absurd ((hnone j).symm.trans hr) nofun⟩

end Sys2Proof.Machine
end

section
/-! PROOFS. The scan of the check sequence (spec/42 rules R202, R205): which threads a port has passed before and after each of
its lines. -/

namespace Sys2Proof.Machine

section
variable {i : Instr} {st : List Seq} {s t : State} {q q' : Port} {x : Latches} {j : Nat}

/-! ### The threads that a scan has passed -/

/-- The scan with the latches `x` has passed thread `j` when it is at `V3` or at `next`. -/
def Latches.HasPassed (x : Latches) (j : Nat) : Prop :=
  j / 64 < x.wi.toNat ∨ (j / 64 = x.wi.toNat ∧ x.bm.getLsbD (j % 64) = false)

theorem passed_v2 (h : q.phase = .busy .v2 st) : q.passed j = true ↔ j / 64 < q.lat.wi.toNat := by
  simp only [Port.passed, h, decide_eq_true_eq]

theorem passed_v3 (h : q.phase = .busy .v3 st) : q.passed j = true ↔ q.lat.HasPassed j := by
  simp [Port.passed, h, Latches.HasPassed]

theorem passed_v4 (h : q.phase = .busy .v4 st) : q.passed j = true := by
  simp only [Port.passed, h]

theorem passed_congr (hphase : q'.phase = q.phase) (hlat : q'.lat = q.lat) (j : Nat) : q'.passed j = q.passed j := by
  simp only [Port.passed, hphase, hlat]

/-- Only a port in the scan, past its first line, has passed a thread. -/
theorem line_of_passed (h : q.passed j = true) : ∃ l st, q.phase = .busy l st ∧ l ∈ [Label.v2, .v3, .v4] := by
  unfold Port.passed at h
  split at h
  case h_4 => cases h
  all_goals exact ⟨_, _, ‹_›, by decide⟩

theorem lt_of_regd (h : s.regd j = true) : j < 64 * s.bitmap.length := by
  by_contra hle
  rw [State.regd, List.getD_eq_default _ _ (by omega)] at h
  simp at h

/-- The loaded word: a thread whose bit is clear is not registered. -/
theorem hasPassed_of_load (hr : s.regd j = true)
    (h : ({ x with bm := s.bitmap.getD x.wi.toNat 0#64 } : Latches).HasPassed j) : j / 64 < x.wi.toNat := by
  rcases h with hlt | ⟨hw, hbit⟩
  · exact hlt
  · rw [State.regd, hw] at hr
    exact absurd (hr.symm.trans hbit) nofun

/-- The thread examined at `V3` is the one more that is passed. -/
theorem hasPassed_of_passThread {c : U64} (h : (x.passThread c).HasPassed j) : x.HasPassed j ∨ j = x.scanned := by
  rcases h with hlt | ⟨hw, hbit⟩
  · exact .inl (.inl hlt)
  · have hm : j % 64 < 64 := Nat.mod_lt _ (by decide)
    change (x.bm &&& ~~~(bit64 (lowestSet x.bm))).getLsbD (j % 64) = false at hbit
    change j / 64 = x.wi.toNat at hw
    rw [BitVec.getLsbD_and, BitVec.getLsbD_not, bit64_getLsbD _ _ hm] at hbit
    by_cases hlow : lowestSet x.bm = j % 64
    · right
      rw [Latches.scanned, hlow]
      omega
    · left
      exact .inr ⟨hw, by simpa [hm, hlow] using hbit⟩

/-- The minimum after a thread with the counter `c` has passed. -/
theorem minc_passThread (x : Latches) (c : U64) :
    (x.passThread c).minc ≤ c ∧ (x.seen = true → (x.passThread c).minc ≤ x.minc) := by
  simp only [passThread_eq]
  split
  case isTrue h => exact ⟨BitVec.le_refl _, fun hseen => BitVec.le_of_lt (h.resolve_left (by simp [hseen]))⟩
  case isFalse h => exact ⟨BitVec.not_lt.mp fun hlt => h (.inr hlt), fun _ => BitVec.le_refl _⟩

/-! ### The continuation `next` -/

/-- The four ways on from `next` of rule R202 with the latches `x`. -/
inductive NextCase (i : Instr) (st : List Seq) (s t : State) (x : Latches) : Prop
  | bit (hbm : x.bm ≠ 0#64) (hlat : t.lat = x) (hp : t.phase = .busy .v3 st)
  | word (hbm : x.bm = 0#64) (hmore : (x.wi + 1#32).toNat ≠ nwords s.cfg) (hlat : t.lat = { x with wi := x.wi + 1#32 })
      (hp : t.phase = .busy .v2 st)
  | ack (hbm : x.bm = 0#64) (hlast : (x.wi + 1#32).toNat = nwords s.cfg) (hlat : t.lat = { x with wi := x.wi + 1#32 })
      (hp : t.phase = .busy .v4 st)
  | done (hbm : x.bm = 0#64) (hlast : (x.wi + 1#32).toNat = nwords s.cfg)
      (hafter : AfterCheck i s t { x with wi := x.wi + 1#32, okf := true })

theorem AtCheckNext.cases (h : AtCheckNext i st s t x) : NextCase i st s t x := by
  unfold AtCheckNext at h
  split at h
  case isTrue hbm => exact .bit hbm h.1 h.2.1
  case isFalse hbm =>
    split at h
    case isTrue hmore => exact .word (not_not.mp hbm) hmore h.1 h.2.1
    case isFalse hlast =>
      split at h
      · exact .ack (not_not.mp hbm) (not_not.mp hlast) h.1 h.2.1
      · exact .done (not_not.mp hbm) (not_not.mp hlast) h

/-- A check that has ended is at none of its lines. -/
theorem AfterCheck.line (hi : checkUse i = some st) (h : AfterCheck i s t x) {l : Label} {st' : List Seq}
    (hp : t.phase = .busy l st') : l ∉ [Label.v1, .v2, .v3, .v4] := by
  obtain ⟨-, h⟩ := h
  cases i <;> cases hi
  case check | sync =>
    have hidle : t.phase = .idle := h.1
    rw [hidle] at hp
    cases hp
  all_goals
    dsimp only at h
    split at h <;>
      · obtain ⟨hp', -⟩ := h
        rw [hp'] at hp
        cases hp
        decide

theorem AfterCheck.not_passed (hi : checkUse i = some st) (h : AfterCheck i s t x) : t.port.passed j ≠ true := by
  intro hpass
  obtain ⟨l, st', hp, hl⟩ := line_of_passed hpass
  exact h.line hi hp (List.mem_cons_of_mem _ hl)

theorem toNat_succ_le (w : U32) : (w + 1#32).toNat ≤ w.toNat + 1 := by
  rw [BitVec.toNat_add]
  exact Nat.mod_le _ _

/-- The last word of a scan is the last word of the bitmap. -/
theorem hasPassed_of_last (hwords : s.bitmap.length = nwords s.cfg) (hbm : x.bm = 0#64)
    (hlast : (x.wi + 1#32).toNat = nwords s.cfg) (hr : s.regd j = true) : x.HasPassed j := by
  have hj := lt_of_regd hr
  have hle := toNat_succ_le x.wi
  by_cases hw : j / 64 = x.wi.toNat
  · exact .inr ⟨hw, by simp [hbm]⟩
  · exact .inl (by omega)

/-- The threads that a port has passed when it goes on from `next`. -/
theorem hasPassed_of_next (hi : checkUse i = some st) (hwords : s.bitmap.length = nwords s.cfg)
    (h : AtCheckNext i st s t x) (hr : s.regd j = true) (hpass : t.port.passed j = true) : x.HasPassed j := by
  cases h.cases with
  | bit hbm hlat hp => exact hlat ▸ (passed_v3 hp).mp hpass
  | word hbm hmore hlat hp =>
    have hlt : j / 64 < t.lat.wi.toNat := (passed_v2 hp).mp hpass
    rw [hlat] at hlt
    have hle := toNat_succ_le x.wi
    by_cases hw : j / 64 = x.wi.toNat
    · exact .inr ⟨hw, by simp [hbm]⟩
    · exact .inl (by dsimp only at hlt; omega)
  | ack hbm hlast hlat hp => exact hasPassed_of_last hwords hbm hlast hr
  | done hbm hlast hafter => exact absurd hpass (hafter.not_passed hi)

/-- `next` keeps the token and the minimum. -/
theorem AtCheckNext.keeps (h : AtCheckNext i st s t x) :
    t.lat.t = x.t ∧ t.lat.seen = x.seen ∧ t.lat.minc = x.minc := by
  cases h.cases with
  | bit _ hlat _ | word _ _ hlat _ | ack _ _ hlat _ => rw [hlat]; exact ⟨rfl, rfl, rfl⟩
  | done _ _ hafter => rw [hafter.1]; exact ⟨rfl, rfl, rfl⟩

end

end Sys2Proof.Machine
end

section
/-! PROOFS. Only `CHECKSEQ` itself goes to its lines past `V1` (spec/42 rule R202): a port that stands at one of them was at a
line of the same check before its last step. -/

namespace Sys2Proof.Machine

section
variable {i : Instr} {st : List Seq} {s t u : State} {l : Label} {cfg : Params}

/-! ### The lines of a check among those of its command -/

theorem reserveLabels_not_check {d : Sync} (h : l ∈ reserveLabels d) : checkLegal l = false := by
  cases d <;> simp only [reserveLabels, List.mem_cons, List.not_mem_nil, or_false] at h
  case rts => obtain rfl | rfl | rfl | rfl := h <;> rfl
  all_goals obtain rfl | rfl | rfl := h <;> rfl

theorem publishLabels_not_check {d : Sync} (h : l ∈ publishLabels d) : checkLegal l = false := by
  cases d <;> simp only [publishLabels, List.mem_cons, List.not_mem_nil, or_false] at h
  case rts => obtain rfl | rfl | rfl := h <;> rfl
  case mt => obtain rfl | rfl := h <;> rfl
  all_goals exact h ▸ rfl

theorem ringopLegal_not_check {r : RingId} {sd : Side} (h : ringopLegal cfg r sd l st = true) : checkLegal l = false := by
  unfold ringopLegal at h
  split at h
  · exact reserveLabels_not_check (of_decide_eq_true h)
  · exact of_decide_eq_true h ▸ rfl
  · exact publishLabels_not_check (of_decide_eq_true h)
  · cases h

theorem countLegal_not_check (h : countLegal l = true) : checkLegal l = false := by
  simp only [countLegal, List.mem_cons, List.not_mem_nil, or_false, decide_eq_true_eq] at h
  obtain rfl | rfl := h <;> rfl

/-- A command's own code has no line of a check. -/
theorem own_not_check (h : lineLegal cfg i l [] = true) : checkLegal l = false := by
  have hone : ∀ {l' : Label}, checkLegal l' = false → decide (l = l') = true → checkLegal l = false :=
    fun hl' hl => of_decide_eq_true hl ▸ hl'
  cases i with
  | thrReg tid => exact hone (l' := .g1) rfl h
  | thrUnreg tid => exact hone (l' := .u1) rfl h
  | rdLock tid => exact hone (l' := .l1) rfl h
  | rdUnlock tid => exact hone (l' := .l2) rfl h
  | start => exact hone (l' := .a1) rfl h
  | dqEnq => exact hone (l' := .d1) rfl h
  | dqReclaim n => exact hone (l' := .r1) rfl h
  | csrRd reg idx => exact hone (l' := .c1) rfl h
  | quiescent tid =>
    have hl : l ∈ [Label.q1, .q2] := of_decide_eq_true h
    simp only [List.mem_cons, List.not_mem_nil, or_false] at hl
    obtain rfl | rfl := hl <;> rfl
  | sync tid =>
    have hl : l ∈ [Label.y1, .y2, .y3] := of_decide_eq_true h
    simp only [List.mem_cons, List.not_mem_nil, or_false] at hl
    obtain rfl | rfl | rfl := hl <;> rfl
  | dqDelete =>
    have hl : l ∈ [Label.z0, .z1] := of_decide_eq_true h
    simp only [List.mem_cons, List.not_mem_nil, or_false] at hl
    obtain rfl | rfl := hl <;> rfl
  | _ => cases h

/-- A line of a reclaim pass that is a line of a check is one of the check of its oldest entry. -/
theorem reclaimLegal_check {inner : List Seq} (h : reclaimLegal l inner = true) (hl : checkLegal l = true) :
    inner = [.checkseq] := by
  unfold reclaimLegal at h
  split at h
  · simp only [List.mem_cons, List.not_mem_nil, or_false, decide_eq_true_eq] at h
    obtain rfl | rfl := h <;> cases hl
  · exact absurd hl (by simp [reserveLabels_not_check (d := .hts) (of_decide_eq_true h)])
  · rfl
  · rw [of_decide_eq_true h] at hl
    cases hl
  · cases h

/-- A command that stands at a line of a check runs `CHECKSEQ` there. -/
theorem checkUse_of_lineLegal (h : lineLegal cfg i l st = true) (hl : checkLegal l = true) : checkUse i = some st := by
  cases legalLine_of_lineLegal h with
  | own hown => exact absurd hl (by simp [own_not_check hown])
  | ringop r sd inner hi hring => exact absurd hl (by simp [ringopLegal_not_check hring])
  | count r hi hcount => exact absurd hl (by simp [countLegal_not_check hcount])
  | check k hi hcheck => exact checkUse_of_afterCheckOf hi
  | reclaim k inner hi hpass => exact reclaimLegal_check hpass hl ▸ checkUse_of_afterReclaimOf hi

/-! ### Where the other lines go -/

/-- However the line leaves its sub-sequence, it does not go to a line of a check past its first. -/
abbrev Flow.OffScan (x : Flow) : Prop :=
  x.Sat (fun l _ _ => l ∉ [Label.v2, .v3, .v4]) (fun _ => True) (fun _ => True) fun _ => True

theorem Flow.OffScan.within {x : Flow} {q : Seq} {k : State → Flow} (h : x.OffScan) (hk : ∀ u, (k u).OffScan) :
    (x.within q k).OffScan :=
  Flow.Sat.within h (fun _ _ _ => id) (fun u _ => hk u) (fun _ => id) fun _ => id

theorem checkLegal_of_scan (h : l ∈ [Label.v2, .v3, .v4]) : checkLegal l = true :=
  decide_eq_true (List.mem_cons_of_mem _ h)

theorem Flow.Legal.offScan {x : Flow} {ok : Label → List Seq → Prop} (h : x.Legal True ok)
    (hok : ∀ l st, ok l st → checkLegal l = false) : x.OffScan :=
  h.imp (fun l st _ hl hscan => absurd (checkLegal_of_scan hscan) (by simp [hok l st hl])) (fun _ => id)
    (fun _ _ => trivial) fun _ _ => trivial

theorem afterReclaimOf_offScan {k : State → Flow} (hk : afterReclaimOf i = some k) (u : State) : (k u).OffScan := by
  cases i <;> cases hk
  case dqDelete =>
    unfold dqDeletePassed
    split
    · trivial
    · exact (by decide : Label.z1 ∉ [Label.v2, .v3, .v4])
  all_goals trivial

theorem reclaimLoop_offScan (u : State) : (reclaimLoop u).OffScan := by
  unfold reclaimLoop
  split
  · trivial
  · exact (by decide : Label.h1 ∉ [Label.v2, .v3, .v4])

/-- The lines of a reclaim pass but for those of its check. -/
theorem reclaimLine_offScan {inner : List Seq} (g : s.granted) (h : reclaimLegal l inner = true)
    (hl : checkLegal l = false) : (reclaimLine l inner s).OffScan := by
  unfold reclaimLine
  split
  · refine ((reserveLine_legal (d := .hts) g (of_decide_eq_true h)).offScan fun _ _ hok =>
      reserveLabels_not_check hok.2).within fun u => ?_
    unfold reclaimReserved
    split
    · trivial
    · exact (by decide : Label.x1 ∉ [Label.v2, .v3, .v4])
  · unfold reclaimRead
    cases s.memRead .defer (addrOf s.cfg .defer s.lat.oh) (esize s.cfg .defer) with
    | error e => trivial
    | ok e => exact (by decide : Label.v1 ∉ [Label.v2, .v3, .v4])
  · exact reclaimLoop_offScan _
  · exact absurd (hl.symm.trans h) nofun
  · unfold cancelLine
    split <;> trivial
  · trivial

theorem dqEnqCounted_offScan (u : State) : (dqEnqCounted u).OffScan := by
  unfold dqEnqCounted
  split
  · exact (reclaimLoop_offScan _).within fun v => afterReclaimOf_offScan (i := .dqEnq) rfl v
  · trivial

theorem tkinc_offScan {k : State → Flow} (hk : ∀ u, (k u).OffScan) : (tkinc s k).OffScan := by
  unfold tkinc
  split
  · trivial
  · exact hk _

theorem ifAlive_offScan {k : State → Flow} (hk : (k s).OffScan) : (ifAlive s k).OffScan := by
  unfold ifAlive
  split
  · exact hk
  · trivial

theorem onlyAt_offScan {first : Label} {x : Flow} (h : x.OffScan) : (onlyAt first l x).OffScan := by
  unfold onlyAt
  split
  · exact h
  · trivial

theorem reclaimCall_offScan {k : State → Flow} (hk : afterReclaimOf i = some k) (lim : Limit) (u : State) :
    ((reclaimCall lim u).within .reclaimseq k).OffScan :=
  (reclaimLoop_offScan _).within (afterReclaimOf_offScan hk)

theorem syncCheck_offScan (u : State) : (syncCheck u).OffScan :=
  (by decide : Label.v1 ∉ [Label.v2, .v3, .v4])

/-- The own code of the commands that run a check. -/
theorem ownLine_offScan (hi : checkUse i = some st) (l : Label) (s : State) : (ownLine i l s).OffScan := by
  cases i <;> cases hi
  case check => trivial
  case sync tid =>
    simp only [ownLine]
    split
    · simp only [syncBegin]
      split
      · trivial
      · refine tkinc_offScan fun u => ?_
        split
        · exact (by decide : Label.y2 ∉ [Label.v2, .v3, .v4])
        · exact syncCheck_offScan u
    · split
      · exact (by decide : Label.y3 ∉ [Label.v2, .v3, .v4])
      · exact onlyAt_offScan (syncCheck_offScan _)
  case dqEnq =>
    refine onlyAt_offScan (ifAlive_offScan (tkinc_offScan fun u hscan => ?_))
    exact absurd (checkLegal_of_scan hscan) (by simp [reserveLabels_not_check (reserveFirst_ok _).2])
  case dqReclaim n => exact onlyAt_offScan (ifAlive_offScan (reclaimCall_offScan (i := .dqReclaim n) rfl _ s))
  case dqDelete =>
    simp only [ownLine]
    split
    · exact ifAlive_offScan (reclaimCall_offScan (i := .dqDelete) rfl _ s)
    · exact onlyAt_offScan trivial

/-- A line of a command that runs a check, but for the lines of the check. -/
theorem lineFlow_offScan {st' : List Seq} (g : s.granted) (hs : s.status &&& 7#64 = resetStatus s.cfg &&& 7#64)
    (hu : s.unitOk (unitOf i) = true) (hi : checkUse i = some st') (h : lineLegal s.cfg i l st = true)
    (hl : checkLegal l = false) : (lineFlow i l st s).OffScan := by
  cases legalLine_of_lineLegal h with
  | own hown => exact ownLine_offScan hi l s
  | ringop r sd inner hr hring =>
    rw [lineFlow_ringop hr]
    refine ((ringopLine_legal g (ne_zero_of_ispow2 (ispow2_cap_ringop hs hr hu)) hring fun _ _ _ _ _ _ => trivial).offScan
      fun _ _ => ringopLegal_not_check).within fun u => ?_
    cases i <;> cases hi <;> cases hr
    exact (by decide : Label.n1 ∉ [Label.v2, .v3, .v4])
  | count r hr hcount =>
    rw [lineFlow_count hr]
    refine ((countLine_legal hcount).offScan fun _ _ hok => countLegal_not_check hok.2).within fun u => ?_
    cases i <;> cases hi <;> cases hr
    exact dqEnqCounted_offScan u
  | check k hk hcheck => exact absurd (hl.symm.trans hcheck) nofun
  | reclaim k inner hk hpass =>
    rw [lineFlow_reclaim hk]
    exact (reclaimLine_offScan g hpass hl).within (afterReclaimOf_offScan hk)

/-! ### The step -/

/-- A command's first line is at most the first of a check. -/
theorem firstLine_offScan (cfg : Params) (i : Instr) : (firstLine cfg i).1 ∉ [Label.v2, .v3, .v4] := fun hscan => by
  have hcheck := checkLegal_of_scan hscan
  cases i
  case enqBulk | enqBurst => exact absurd hcheck (by simp [firstLine, reserveLabels_not_check (reserveFirst_ok _).2])
  case deqBulk | deqBurst => exact absurd hcheck (by simp [firstLine, reserveLabels_not_check (reserveFirst_ok _).2])
  case check => exact absurd hscan (by simp [firstLine])
  all_goals cases hcheck

/-- A port that a step of its command leaves past `V1` of a check was at a line of that check. -/
theorem line_before_scan (hruns : Runs i s) (hs : s.Sound) (h : exec i s = .next t) (hp : t.phase = .busy l st)
    (hscan : l ∈ [Label.v2, .v3, .v4]) : checkUse i = some st ∧ ∃ l', s.atLine l' st ∧ checkLegal l' = true := by
  have hst := sound_statusBits hs
  obtain ⟨-, -, -, -, -, -, hports⟩ := hs
  obtain ⟨hu, -, hlegal⟩ := exec_line hruns hports hst h hp
  have hi := checkUse_of_lineLegal hlegal (checkLegal_of_scan hscan)
  refine ⟨hi, ?_⟩
  cases hph : s.phase with
  | idle =>
    obtain ⟨m, rest, -, ha⟩ := exec_accepts hph h
    have gpop := (popCmd_carries s).granted hruns.1
    cases ha with
    | answered st' =>
      have hidle : (s.popCmd.respond st' 0#32 0#64).phase = .idle := phase_respondWith gpop st' _ _ _
      rw [hidle] at hp
      cases hp
    | entered _ _ =>
      have glatch := (Carries.updLat s.popCmd fun _ => { Latches.reset with cmd := m.word, src := m.payload }).granted gpop
      rw [phase_setPhase ((enterState_carries i (s.popCmd.latch m)).granted glatch)] at hp
      cases hp
      exact absurd hscan (firstLine_offScan s.cfg i)
  | busy l0 st0 =>
    obtain ⟨-, -, ho, hlegal0⟩ := hruns.busy hports hph
    cases hl0 : checkLegal l0 with
    | true =>
      have hi0 := checkUse_of_lineLegal hlegal0 hl0
      obtain rfl : st0 = st := Option.some.inj (hi0.symm.trans hi)
      exact ⟨l0, ⟨hruns.1, hph⟩, hl0⟩
    | false =>
      have hoff := lineFlow_offScan hruns.1 hst hu hi hlegal0 hl0
      rw [exec_busy ⟨hruns.1, hph⟩] at h
      rcases Flow.outcome_next h with ⟨l', st', u, hx, rfl⟩ | hx
      · have hk := lineFlow_keepsOthers i l0 st0 s
        rw [hx] at hoff hk
        rw [phase_setPhase (Machine.KeepsOthers.granted hk hruns.1)] at hp
        cases hp
        exact absurd hscan hoff
      · have hset := lineFlow_settled hruns.1 hst hu ho hlegal0
        rw [hx] at hset
        have hidle : t.phase = .idle := hset
        rw [hidle] at hp
        cases hp

end

end Sys2Proof.Machine
end

section
/-! PROOFS. Grace-period soundness (spec/42 rules R204, R205, R207): the scan of every port stays sound under every step, and so
does `ACKED_TOKEN` unless a thread registers in the window that rule R204 leaves out (log entry 19). -/

namespace Sys2Proof.Machine

section
variable {i : Instr} {st : List Seq} {s t : State} {q q' : Port} {x : Latches} {l : Label} {p : Nat}

/-! ### The scan of the port that takes the step -/

/-- A check for the token `tok` is over, and if it has succeeded every registered thread has reported `tok`. -/
def State.CheckOver (s : State) (q : Port) (tok : U64) : Prop :=
  (∀ l st, q.phase = .busy l st → l ∉ [Label.v1, .v2, .v3, .v4]) ∧ (q.lat.okf = true → s.Complete tok)

/-- The port scans soundly for the token `tok`, or its check is over. -/
def State.ScansOn (s : State) (q : Port) (tok : U64) : Prop :=
  q.lat.t = tok ∧ (s.Scanning q ∨ s.CheckOver q tok)

/-- A check that ends in `t`. -/
theorem AfterCheck.scansOn {tok : U64} (hi : checkUse i = some st) (h : AfterCheck i s t x) (htok : x.t = tok)
    (hc : x.okf = true → t.Complete tok) : t.ScansOn t.port tok := by
  have hlat : t.port.lat = x := h.1
  exact ⟨hlat ▸ htok, .inr ⟨fun _ _ => h.line hi, fun hok => hc (hlat ▸ hok)⟩⟩

/-- A sound scan goes on soundly from `next`. -/
theorem AtCheckNext.scansOn {tok : U64} (h : AtCheckNext i st s t x) (hi : checkUse i = some st) (hwords : s.bitmap.length = nwords s.cfg)
    (hcfg : t.cfg = s.cfg) (hshared : SameShared s t) (hwi : x.wi.toNat < nwords s.cfg) (hx : x.t = tok)
    (htok : tok ≤ s.token) (hpass : ∀ j, s.regd j = true → x.HasPassed j → tok ≤ s.cntOf j) :
    t.ScansOn t.port tok := by
  obtain ⟨-, ⟨htoken, -⟩, ⟨hbits, -, hcnts, -⟩, -, -⟩ := hshared
  have hsucc := toNat_succ_of_lt_nwords hwi
  have hscan : ∀ {l : Label}, t.phase = .busy l st →
      ((l = .v2 ∧ t.lat.wi.toNat < nwords t.cfg) ∨ (l = .v3 ∧ t.lat.wi.toNat < nwords t.cfg ∧ t.lat.bm ≠ 0#64) ∨ l = .v4) →
      t.ScansOn t.port tok := by
    intro l hp hl
    have ht : t.port.lat.t = tok := h.keeps.1.trans hx
    refine ⟨ht, .inl ⟨⟨l, st, hp, hl⟩, by rwa [ht, htoken], fun j _ hr hj => ?_⟩⟩
    have hrs : s.regd j = true := (regd_of_bitmap hbits j).symm.trans hr
    rw [ht, cntOf_of_cnt hcnts]
    exact hpass j hrs (hasPassed_of_next hi hwords h hrs hj)
  cases h.cases with
  | bit hbm hlat hp => exact hscan hp (.inr (.inl ⟨rfl, by rwa [hlat, hcfg], by rwa [hlat]⟩))
  | word hbm hmore hlat hp =>
    refine hscan hp (.inl ⟨rfl, ?_⟩)
    rw [hlat, hcfg]
    dsimp only
    omega
  | ack hbm hlast hlat hp => exact hscan hp (.inr (.inr rfl))
  | done hbm hlast hafter =>
    refine hafter.scansOn hi hx fun _ j _ hr => ?_
    have hrs : s.regd j = true := (regd_of_bitmap hbits j).symm.trans hr
    rw [cntOf_of_cnt hcnts]
    exact hpass j hrs (hasPassed_of_last hwords hbm hlast hrs)

/-- `V1` starts a sound scan, as nothing has been passed yet. -/
theorem exec_v1_scanning (hi : checkUse i = some st) (hat : s.atLine .v1 st) (hwords : 0 < nwords s.cfg)
    (hslow : s.acked < s.lat.t) (htok : s.lat.t ≤ s.token) (h : exec i s = .next t) : t.Scanning t.port := by
  obtain ⟨t', hnext, hown, ⟨-, ⟨htoken, -⟩, -, -, -⟩, hend⟩ := check_v1 hi hat
  obtain rfl : t' = t := Host.Outcome.next.inj (hnext.symm.trans h)
  rw [if_neg (BitVec.not_le.mpr hslow)] at hend
  obtain ⟨hlat, hp, -⟩ := hend
  have hlat' : t'.port.lat = { s.lat with wi := 0#32, seen := false } := hlat
  refine ⟨⟨.v2, st, hp, .inl ⟨rfl, ?_⟩⟩, ?_, fun j _ _ hpass => ?_⟩
  · rw [hlat', hown.1]
    exact hwords
  · rw [hlat', htoken]
    exact htok
  · rw [passed_v2 hp, hlat'] at hpass
    cases hpass

/-- A waiting scan that goes back to `V2` with its latches unchanged has passed no more threads than at `V3`. -/
theorem scanning_back {st' : List Seq} (hp : s.port.phase = .busy .v3 st) (hwi : s.lat.wi.toNat < nwords s.cfg)
    (hs : s.Scanning s.port) (hcfg : t.cfg = s.cfg) (hshared : SameShared s t) (hlat : t.port.lat = s.lat)
    (hp' : t.port.phase = .busy .v2 st') : t.Scanning t.port := by
  obtain ⟨-, ⟨htoken, -⟩, ⟨hbits, -, hcnts, -⟩, -, -⟩ := hshared
  obtain ⟨-, htok, hpass⟩ := hs
  refine ⟨⟨.v2, st', hp', .inl ⟨rfl, by rwa [hlat, hcfg]⟩⟩, by rwa [hlat, htoken], fun j hj hr hback => ?_⟩
  rw [passed_v2 hp', hlat] at hback
  rw [hlat, cntOf_of_cnt hcnts]
  exact hpass j (hbits ▸ hj) ((regd_of_bitmap hbits j).symm.trans hr) ((passed_v3 hp).mpr (.inl hback))

/-- A line of a sound scan. -/
theorem exec_scansOn (hi : checkUse i = some st) (hat : s.atLine l st) (hwords : s.bitmap.length = nwords s.cfg)
    (hs : s.Scanning s.port) (h : exec i s = .next t) : t.ScansOn t.port s.lat.t := by
  obtain ⟨⟨l', st', hp, hl⟩, htok, hpass⟩ := id hs
  have hpass' : ∀ j, s.regd j = true → s.port.passed j = true → s.lat.t ≤ s.cntOf j := fun j hr =>
    hpass j (lt_of_regd hr) hr
  have hp' : s.phase = .busy l' st' := hp
  rw [hat.2] at hp'
  cases hp'
  rcases hl with ⟨rfl, hwi⟩ | ⟨rfl, hwi, hbm⟩ | rfl
  · obtain ⟨t', hnext, hown, hshared, hend⟩ := check_v2 hi hat
    obtain rfl : t' = t := Host.Outcome.next.inj (hnext.symm.trans h)
    exact hend.scansOn hi hwords hown.1 hshared hwi rfl htok fun j hr hj =>
      hpass' j hr ((passed_v2 hp).mpr (hasPassed_of_load hr hj))
  · obtain ⟨t', hnext, hown, hshared, hend⟩ := check_v3 hi hat
    obtain rfl : t' = t := Host.Outcome.next.inj (hnext.symm.trans h)
    by_cases hlag : s.cntOf s.lat.scanned < s.lat.t
    · rw [if_pos hlag] at hend
      by_cases hwt : s.lat.wt = true
      · rw [if_pos hwt] at hend
        obtain ⟨hlat, hp2, -⟩ := hend
        exact ⟨congrArg Latches.t hlat, .inl (scanning_back hp hwi hs hown.1 hshared hlat hp2)⟩
      · rw [if_neg hwt] at hend
        exact hend.scansOn hi rfl nofun
    · rw [if_neg hlag] at hend
      refine hend.scansOn hi hwords hown.1 hshared hwi rfl htok fun j hr hj => ?_
      rcases hasPassed_of_passThread hj with hold | rfl
      · exact hpass' j hr ((passed_v3 hp).mpr hold)
      · exact BitVec.not_lt.mp hlag
  · obtain ⟨t', hnext, hown, ⟨-, -, ⟨hbits, -, hcnts, -⟩, -, -⟩, hend⟩ := check_v4 hi hat
    obtain rfl : t' = t := Host.Outcome.next.inj (hnext.symm.trans h)
    refine hend.scansOn hi rfl fun _ j _ hr => ?_
    rw [cntOf_of_cnt hcnts]
    exact hpass' j ((regd_of_bitmap hbits j).symm.trans hr) (passed_v4 hp)

/-! ### The scan of any port -/

/-- What a step does to port `p`: it keeps its phase and latches, or it takes a step of its command. -/
inductive PortStep (s t : State) (p : Nat) (q : Port) : Prop
  | kept (q' : Port) (h : t.ports[p]? = some q') (hphase : q'.phase = q.phase) (hlat : q'.lat = q.lat)
  | ran (i : Instr) (sched : List Event) (tick : Nat) (hruns : Runs i (s.withOwn p sched tick))
      (hexec : exec i (s.withOwn p sched tick) = .next t) (h : t.ports[p]? = some t.port)

theorem step_port (hq : s.ports[p]? = some q) (hreset : ∀ cfg, (nextEvent s).1 ≠ some (.reset cfg))
    (h : step s = .next t) : PortStep s t p q := by
  cases step_cases h with
  | still sched tick freech => exact .kept q hq rfl rfl
  | reset cfg sched tick hev => exact absurd hev (hreset cfg)
  | touch p' q0 q' cur sched tick hq0 hphase hlat =>
    by_cases hp : p' = p
    · subst hp
      obtain rfl : q0 = q := Option.some.inj (hq0.symm.trans hq)
      exact .kept q' (List.getElem?_set_self (List.getElem?_eq_some_iff.mp hq).1) hphase hlat
    · exact .kept q ((List.getElem?_set_ne hp).trans hq) rfl rfl
  | run i p' sched tick _ hruns hexec =>
    have hports := (exec_onlyOwnPort hexec).ports_eq hruns.1
    by_cases hp : p' = p
    · subst hp
      exact .ran i sched tick hruns hexec (hports ▸ List.getElem?_set_self hruns.1)
    · exact .kept q (hports ▸ (List.getElem?_set_ne hp).trans hq) rfl rfl

/-- The scan of a port that does not take the step: a thread that joins does so at `TOKEN`. -/
theorem Progress.scanning (h : Progress s t) (hk : CountersKept s t) (hwords : nwords t.cfg = nwords s.cfg)
    (hphase : q'.phase = q.phase) (hlat : q'.lat = q.lat) (hs : s.Scanning q) : t.Scanning q' := by
  obtain ⟨⟨l, st, hp, hl⟩, htok, hpass⟩ := hs
  refine ⟨⟨l, st, hphase ▸ hp, by rwa [hlat, hwords]⟩, hlat ▸ BitVec.le_trans htok h.token, fun j _ hr hj => ?_⟩
  rw [hlat]
  refine h.reported hk htok hr fun hrs => hpass j (lt_of_regd hrs) hrs ?_
  rwa [passed_congr hphase hlat] at hj

theorem step_nwords (hs : s.Sound) (hp : Progress s t) (h : step s = .next t) : nwords t.cfg = nwords s.cfg := by
  obtain ⟨-, ht, -⟩ := soundKept s t hs h
  obtain ⟨-, hs, -⟩ := hs
  rw [← ht, hp.words, hs]

/-- A port that scans runs a check at its line. -/
theorem scanning_line (hruns : Runs i s) (hs : s.Sound) (hscan : s.Scanning s.port) :
    ∃ l st, checkUse i = some st ∧ s.atLine l st := by
  obtain ⟨⟨l, st, hp, hl⟩, -, -⟩ := hscan
  obtain ⟨-, -, -, -, -, -, hports⟩ := hs
  obtain ⟨-, -, -, hlegal⟩ := hruns.busy hports hp
  have hcheck : checkLegal l = true := by
    rcases hl with ⟨rfl, -⟩ | ⟨rfl, -, -⟩ | rfl <;> rfl
  exact ⟨l, st, checkUse_of_lineLegal hlegal hcheck, hruns.1, hp⟩

/-- The scan of every port stays sound under every step. -/
theorem step_scansOn (hs : s.Sound) (hq : s.ports[p]? = some q) (hscan : s.Scanning q)
    (hreset : ∀ cfg, (nextEvent s).1 ≠ some (.reset cfg)) (h : step s = .next t) (hk : CountersKept s t) :
    ∃ q', t.ports[p]? = some q' ∧ t.ScansOn q' q.lat.t := by
  have hprog := step_progress hs hreset h
  cases step_port hq hreset h with
  | kept q' hq' hphase hlat =>
    exact ⟨q', hq', congrArg Latches.t hlat, .inl (hprog.scanning hk (step_nwords hs hprog h) hphase hlat hscan)⟩
  | ran i sched tick hruns hexec hq' =>
    obtain ⟨-, hport⟩ := State.withOwn_port (sched := sched) (tick := tick) hq
    have hscan' : (s.withOwn p sched tick).Scanning (s.withOwn p sched tick).port := hport.symm ▸ hscan
    obtain ⟨l, st, hi, hat⟩ := scanning_line (s := s.withOwn p sched tick) hruns hs hscan'
    obtain ⟨-, hwords, -⟩ := hs
    have hon := exec_scansOn hi hat hwords hscan' hexec
    rw [State.lat, hport] at hon
    exact ⟨t.port, hq', hon⟩

end

end Sys2Proof.Machine
end

section
/-! PROOFS. `ACKED_TOKEN` (spec/42 rules R204, R205, R207): it stays fully observed under every step in which no thread registers
in the window that rule R204 leaves out (log entry 19); and the statement about grace-period soundness. -/

namespace Sys2Proof.Machine

section
variable {i : Instr} {st : List Seq} {s t : State} {q q' : Port} {x : Latches} {l : Label} {j : Nat}

/-! ### The threads that a scan has accounted for -/

/-- Every registered thread that the scan of the port `q` has passed is accounted for in its minimum (rule R204). -/
def State.Accounted (s : State) (q : Port) : Prop :=
  ∀ j, s.regd j = true → q.passed j = true → q.lat.seen = true ∧ q.lat.minc ≤ s.cntOf j

theorem ackedSound_iff : s.AckedSound ↔ s.Complete s.acked ∧ ∀ q ∈ s.ports, s.Accounted q :=
  and_congr_right fun _ =>
    ⟨fun h q hq j hr => h q hq j (lt_of_regd hr) hr, fun h q hq j _ hr => h q hq j hr⟩

theorem Accounted.congr (h : s.Accounted q) (hphase : q'.phase = q.phase) (hlat : q'.lat = q.lat) : s.Accounted q' := by
  intro j hr hj
  rw [hlat]
  exact h j hr (passed_congr hphase hlat j ▸ hj)

/-- A port that has passed no thread. -/
theorem accounted_of_not_passed (h : ∀ j, q.passed j ≠ true) : s.Accounted q := fun j _ hj => absurd hj (h j)

theorem AtCheckNext.accounted (h : AtCheckNext i st s t x) (hi : checkUse i = some st)
    (hwords : s.bitmap.length = nwords s.cfg) (hthreads : SameThreads s t)
    (hpass : ∀ j, s.regd j = true → x.HasPassed j → x.seen = true ∧ x.minc ≤ s.cntOf j) : t.Accounted t.port := by
  obtain ⟨hbits, -, hcnts, -⟩ := hthreads
  obtain ⟨-, hseen, hminc⟩ := h.keeps
  intro j hr hj
  have hrs : s.regd j = true := (regd_of_bitmap hbits j).symm.trans hr
  obtain ⟨hs, hm⟩ := hpass j hrs (hasPassed_of_next hi hwords h hrs hj)
  exact ⟨hseen.trans hs, cntOf_of_cnt hcnts j ▸ BitVec.le_trans (BitVec.le_of_eq hminc) hm⟩

/-- A line of a check. -/
theorem exec_check_accounted (hi : checkUse i = some st) (hat : s.atLine l st) (hl : checkLegal l = true)
    (hwords : s.bitmap.length = nwords s.cfg) (hs : s.Accounted s.port) (h : exec i s = .next t) :
    t.Accounted t.port := by
  have hp : s.port.phase = .busy l st := hat.2
  simp only [checkLegal, List.mem_cons, List.not_mem_nil, or_false, decide_eq_true_eq] at hl
  rcases hl with rfl | rfl | rfl | rfl
  · obtain ⟨t', hnext, -, -, hend⟩ := check_v1 hi hat
    obtain rfl : t' = t := Host.Outcome.next.inj (hnext.symm.trans h)
    refine accounted_of_not_passed fun j hj => ?_
    split at hend
    · exact hend.not_passed hi hj
    · obtain ⟨hlat, hp2, -⟩ := hend
      have hlat' : t'.port.lat = { s.lat with wi := 0#32, seen := false } := hlat
      rw [passed_v2 hp2, hlat'] at hj
      cases hj
  · obtain ⟨t', hnext, -, ⟨-, -, hthreads, -, -⟩, hend⟩ := check_v2 hi hat
    obtain rfl : t' = t := Host.Outcome.next.inj (hnext.symm.trans h)
    exact hend.accounted hi hwords hthreads fun j hr hj => hs j hr ((passed_v2 hp).mpr (hasPassed_of_load hr hj))
  · obtain ⟨t', hnext, -, ⟨-, -, hthreads, -, -⟩, hend⟩ := check_v3 hi hat
    obtain rfl : t' = t := Host.Outcome.next.inj (hnext.symm.trans h)
    split at hend
    · split at hend
      · obtain ⟨hlat, hp2, -⟩ := hend
        obtain ⟨hbits, -, hcnts, -⟩ := hthreads
        have hlat' : t'.port.lat = s.lat := hlat
        intro j hr hj
        rw [passed_v2 hp2, hlat'] at hj
        rw [hlat', cntOf_of_cnt hcnts]
        exact hs j ((regd_of_bitmap hbits j).symm.trans hr) ((passed_v3 hp).mpr (.inl hj))
      · exact accounted_of_not_passed fun j => hend.not_passed hi
    · refine hend.accounted hi hwords hthreads fun j hr hj => ⟨rfl, ?_⟩
      obtain ⟨hle, hmin⟩ := minc_passThread s.lat (s.cntOf s.lat.scanned)
      rcases hasPassed_of_passThread hj with hbefore | rfl
      · obtain ⟨hseen, hold⟩ := hs j hr ((passed_v3 hp).mpr hbefore)
        exact BitVec.le_trans (hmin hseen) hold
      · exact hle
  · obtain ⟨t', hnext, -, -, hend⟩ := check_v4 hi hat
    obtain rfl : t' = t := Host.Outcome.next.inj (hnext.symm.trans h)
    exact accounted_of_not_passed fun j => hend.not_passed hi

/-- The port that takes a step. -/
theorem exec_accounted (hruns : Runs i s) (hs : s.Sound) (ha : s.Accounted s.port) (h : exec i s = .next t) :
    t.Accounted t.port := by
  intro j hr hj
  obtain ⟨l, st, hp, hscan⟩ := line_of_passed hj
  obtain ⟨hi, l', hat, hl'⟩ := line_before_scan hruns hs h hp hscan
  obtain ⟨-, hwords, -⟩ := hs
  exact exec_check_accounted hi hat hl' hwords ha h j hr hj

/-- A port that has passed a thread holds a minimum that was once current. -/
theorem minc_le_token (h : portTokens s q = true) (hpass : q.passed j = true) (hseen : q.lat.seen = true) :
    q.lat.minc ≤ s.token := by
  obtain ⟨l, st, hp, hl⟩ := line_of_passed hpass
  rw [portTokens_busy hp] at h
  simp only [List.mem_cons, List.not_mem_nil, or_false] at hl
  rcases hl with rfl | rfl | rfl
  · exact h hseen
  · exact h hseen
  · exact h

/-- A port that does not take the step: a thread that registers after it has been passed does so at `TOKEN`, and the scan has
seen a thread by then. -/
theorem Progress.accounted (h : Progress s t) (hk : CountersKept s t) (hq : q ∈ s.ports) (hlate : NoLateJoin s t)
    (htok : portTokens s q = true) (ha : s.Accounted q) : t.Accounted q := by
  intro j hr hj
  have hseen : q.lat.seen = true := by
    by_contra hno
    rw [Bool.not_eq_true] at hno
    cases hrs : s.regd j with
    | true => exact absurd ((ha j hrs hj).1.symm.trans hno) nofun
    | false => exact absurd (hr.symm.trans (hlate q hq hno j hj hrs)) nofun
  exact ⟨hseen, h.reported hk (minc_le_token htok hj hseen) hr fun hrs => (ha j hrs hj).2⟩

/-! ### `ACKED_TOKEN` -/

/-- What `ACKED_TOKEN` becomes was reported by every thread before the step, and was once current. -/
theorem exec_acked (hs : s.AckedSound) (htok : s.TokensOrdered) (h : exec i s = .next t) :
    s.Complete t.acked ∧ t.acked ≤ s.token := by
  obtain ⟨hcomplete, hacc⟩ := ackedSound_iff.mp hs
  obtain ⟨hacked, -, hports⟩ := htok
  have g := granted_of_exec h
  by_cases hsame : t.acked = s.acked
  · rw [hsame]
    exact ⟨hcomplete, hacked⟩
  · obtain ⟨hminc, -, st, -, hp⟩ := (tokenWriters i s t h).2 hsame
    rw [hminc]
    exact ⟨fun j _ hr => (hacc _ (port_mem g) j hr (passed_v4 hp)).2, (portTokens_busy hp).mp (hports _ (port_mem g))⟩

/-- `ACKED_TOKEN` stays fully observed. -/
theorem step_ackedSound (hs : s.Sound) (htok : s.TokensOrdered) (ha : s.AckedSound) (h : step s = .next t)
    (hk : CountersKept s t) (hlate : NoLateJoin s t) : t.AckedSound := by
  cases step_cases h with
  | still sched tick freech => exact ha
  | reset cfg sched tick hev =>
    obtain ⟨-, -, hreset, -⟩ := resetMeetsInvariants cfg
    exact hreset
  | touch p q q' cur sched tick hq hphase hlat =>
    obtain ⟨hcomplete, hacc⟩ := ackedSound_iff.mp ha
    refine ackedSound_iff.mpr ⟨hcomplete, fun x hx => ?_⟩
    rcases List.mem_or_eq_of_mem_set hx with hx | rfl
    · exact hacc x hx
    · exact Accounted.congr (hacc q (List.mem_of_getElem? hq)) hphase hlat
  | run i p sched tick _ hruns hexec =>
    have hprog := exec_progress (s := s.withOwn p sched tick) hs hruns hexec
    obtain ⟨hcomplete, hle⟩ := exec_acked (s := s.withOwn p sched tick) ha htok hexec
    obtain ⟨-, hacc⟩ := ackedSound_iff.mp ha
    obtain ⟨-, -, hports⟩ := htok
    refine ackedSound_iff.mpr ⟨hprog.complete hk hle hcomplete, fun x hx => ?_⟩
    rw [(exec_onlyOwnPort hexec).ports_eq hruns.1] at hx
    rcases List.mem_or_eq_of_mem_set hx with hx | rfl
    · exact hprog.accounted hk hx hlate (hports x hx) (hacc x hx)
    · exact exec_accounted (s := s.withOwn p sched tick) hruns hs (hacc _ (port_mem hruns.1)) hexec

/-! ### Reports -/

/-- What a store to a counter leaves in thread `j`'s is the old value or, in its own, the new one. -/
theorem setCnt_cntOf_cases (s : State) (n : Nat) (v : U64) (j : Nat) :
    (s.setCnt n v).cntOf j = s.cntOf j ∨ (n = j ∧ (s.setCnt n v).cntOf j = v) := by
  simp only [State.setCnt, State.cntOf, List.getD_eq_getElem?_getD, List.getElem?_set]
  by_cases hn : n = j
  · subst hn
    by_cases hlt : n < s.cnt.length
    · simp [hlt]
    · simp [hlt]
  · simp [hn]

/-- A registered thread's counter reaches a token only by a report. -/
theorem exec_reports {tok : U64} (h : exec i s = .next t) (hr : s.regd j = true) (hbefore : s.cntOf j < tok)
    (hafter : tok ≤ t.cntOf j) :
    tok ≤ s.lat.qt ∧ ∃ tid : U32, tid.toNat = j ∧
      ((i = .quiescent tid ∧ s.phase = .busy .q2 []) ∨ (i = .sync tid ∧ s.phase = .busy .y3 [])) := by
  have hchanged : t.cntOf j ≠ s.cntOf j := fun heq => absurd hbefore (BitVec.not_lt.mpr (heq ▸ hafter))
  cases exec_regEffect h with
  | same h | token _ _ _ h | fault _ _ h _ | acked _ _ _ h | unregister _ _ _ _ h | lock _ _ _ h | kill _ _ h =>
    obtain ⟨-, -, hcnts, -⟩ := h.regs.threads
    exact absurd (cntOf_of_cnt (s := s) hcnts j) hchanged
  | register tid _ _ hnot h =>
    obtain ⟨-, -, hcnts, -⟩ := h.regs.threads
    rcases setCnt_cntOf_cases s tid.toNat s.token j with hold | ⟨rfl, -⟩
    · exact absurd ((cntOf_of_cnt (s := s.setCnt tid.toNat s.token) hcnts j).trans hold) hchanged
    · exact absurd (hr.symm.trans hnot) nofun
  | report tid hat h =>
    obtain ⟨-, -, hcnts, -⟩ := h.regs.threads
    have hcnt := cntOf_of_cnt hcnts j
    rcases setCnt_cntOf_cases s tid.toNat s.lat.qt j with hold | ⟨htid, hnew⟩
    · exact absurd (hcnt.trans hold) hchanged
    · exact ⟨hnew ▸ hcnt ▸ hafter, tid, htid, hat⟩

end

/-- Settles O59: the scan keeps every thread that it has passed at or beyond its token, `V4` records no more than the threads
have reported, and only a report raises a registered thread's counter. -/
theorem scanIsSound : Obligations.ScanIsSound := by
  refine ⟨fun i st s t _ hwords hi hat => exec_v1_scanning hi hat hwords, fun s t p q hs hq hscan hreset h hk => ?_,
    fun i st s ha hi hat hfast => ?_, fun s t hs htok ha h => step_ackedSound hs htok ha h,
    fun i s t j tok h => exec_reports h⟩
  · obtain ⟨q', hq', htok, hon⟩ := step_scansOn hs hq hscan hreset h hk
    exact ⟨q', hq', htok, hon⟩
  · obtain ⟨t, hnext, -, hshared, hend⟩ := check_v1 hi hat
    obtain ⟨-, -, ⟨hbits, -, hcnts, -⟩, -, -⟩ := id hshared
    rw [if_pos hfast] at hend
    refine ⟨t, hnext, hshared, hend, fun j hj hr => ?_⟩
    rw [hbits] at hj
    rw [regd_of_bitmap hbits] at hr
    rw [cntOf_of_cnt hcnts]
    exact ha.1.mono hfast j hj hr

end Sys2Proof.Machine
end

section
/-! PROOFS. The run of log entry 19: a thread registers after its bitmap word has been loaded and before the check's first counter
has, `V4` then raises `ACKED_TOKEN` above its counter, and `V1` answers for it (spec/42 rules R202, R204, R205). The run is
executed, with the host's duty of spec/70 rule R293 tested at every step. -/

namespace Sys2Proof.Machine

/-! ### The host's duty, in a form that can be tested -/

/-- Two ports whose commands in flight do not name the same thread. -/
abbrev Port.Apart (q q' : Port) : Prop := q.thread = none ∨ q.thread ≠ q'.thread

theorem oneOwner_of_pairwise {s : State} (h : s.ports.Pairwise Port.Apart) : s.OneOwner := by
  have hlt : ∀ {p p' : Nat} {q q' : Port} {tid : U32}, s.ports[p]? = some q → s.ports[p']? = some q' →
      q.thread = some tid → q'.thread = some tid → ¬ p < p' := by
    intro p p' q q' tid hq hq' ht ht' hpp
    obtain ⟨hp, rfl⟩ := List.getElem?_eq_some_iff.mp hq
    obtain ⟨hp', rfl⟩ := List.getElem?_eq_some_iff.mp hq'
    rcases List.pairwise_iff_getElem.mp h p p' hp hp' hpp with hnone | hne
    · exact absurd (ht.symm.trans hnone) nofun
    · exact hne (ht.trans ht'.symm)
  intro p p' q q' tid hq hq' ht ht'
  exact Nat.le_antisymm (Nat.not_lt.mp (hlt hq' hq ht' ht)) (Nat.not_lt.mp (hlt hq hq' ht ht'))

/-- The duty of rule R293 over the counters that there are. -/
abbrev CountersKeptBelow (s t : State) : Prop :=
  ∀ i ∈ List.range s.cnt.length, s.regd i = true → t.regd i = true → s.cntOf i ≤ t.cntOf i

theorem countersKept_of_below {s t : State} (h : CountersKeptBelow s t) : CountersKept s t := by
  intro i hs ht
  by_cases hi : i < s.cnt.length
  · exact h i (List.mem_range.mpr hi) hs ht
  · have hzero : s.cntOf i = 0#64 := List.getD_eq_default _ _ (Nat.le_of_not_lt hi)
    rw [hzero, BitVec.le_def]
    exact Nat.zero_le _

/-- The host keeps its duty in a step from `s` to `t`, no fault is raised, and thread `i` is registered in `t` if `i` is
given. -/
abbrev StepDuty (i : Option Nat) (s t : State) : Prop :=
  CountersKeptBelow s t ∧ s.ports.Pairwise Port.Apart ∧ t.ports.Pairwise Port.Apart ∧ t.fault = 0#64 ∧
    ∀ j ∈ i, t.regd j = true

/-! ### A run that is tested at every step -/

/-- The state after `k` steps, each of which passes the test `ok`. -/
def runTested (ok : State → State → Bool) : Nat → State → Option State
  | 0, s => some s
  | k + 1, s =>
    match step s with
    | .next t => if ok s t then runTested ok k t else none
    | _ => none

theorem eachStep_of_runTested {ok : State → State → Bool} {P : State → State → Prop}
    (hok : ∀ s t, ok s t = true → P s t) {k : Nat} :
    ∀ {s t : State}, runTested ok k s = some t → EachStep P k s ∧ Sys2Proof.core.run k s = .next t := by
  induction k with
  | zero =>
    intro s t h
    cases h
    exact ⟨trivial, rfl⟩
  | succ k ih =>
    intro s t h
    unfold runTested at h
    split at h
    · rename_i u hu
      split at h
      · rename_i htest
        obtain ⟨heach, hrun⟩ := ih h
        exact ⟨⟨u, hu, hok s u htest, heach⟩, (run_succ hu).trans hrun⟩
      · cases h
    · cases h

/-- The same of a run that is known to pass its tests. -/
theorem eachStep_of_tested {ok : State → State → Bool} {P : State → State → Prop} {k : Nat} {s : State}
    (hok : ∀ s t, ok s t = true → P s t) (h : (runTested ok k s).isSome = true) :
    EachStep P k s ∧ Sys2Proof.core.run k s = .next ((runTested ok k s).getD s) := by
  obtain ⟨t, ht⟩ := Option.isSome_iff_exists.mp h
  rw [ht]
  exact eachStep_of_runTested hok ht

/-! ### The run -/

/-- The host sends a command without payload to port `p`, which is granted `k` steps. -/
def commandOn (p : Nat) (c : Instr) (k : Nat) : List Event :=
  .send p { word := encode c, payload := { size := 0, bytes := [] } } :: List.replicate k (.grant p)

theorem commandOn_events {p : Nat} {c : Instr} {k : Nat} (cfg : Params) (hc : unitOf c = .qsbr) {e : Event}
    (he : e ∈ commandOn p c k) :
    (∃ p', e = .grant p') ∨ ∃ p' m c', e = .send p' m ∧ decodeMessage cfg m = .ok c' ∧ unitOf c' = .qsbr := by
  rcases List.mem_cons.mp he with rfl | hgrant
  · refine .inr ⟨p, _, c, rfl, ?_, hc⟩
    obtain ⟨-, -, -, hmessage⟩ := decodeEncode c
    have hwf : c.wf cfg { size := 0, bytes := [] } = true := by
      cases c <;> first | rfl | cases hc
    rw [hmessage, if_pos hwf]
  · exact .inl ⟨p, (List.mem_replicate.mp hgrant).2⟩

/-- Token 1 is issued and thread 0 registers; port 0 begins `CHECK 1` and loads the bitmap word with thread 0 in it; thread 1
registers, with its counter at 1. -/
def lateJoinBefore : List Event :=
  commandOn 1 .start 2 ++ commandOn 1 (.thrReg 0#32) 2 ++ commandOn 0 (.check 1#64 false) 3 ++
    commandOn 1 (.thrReg 1#32) 2

/-- Token 2 is issued and thread 0 reports it; the check on port 0 loads its first counter, which is 2, and records it; then
`CHECK 2` is answered by the fast path. -/
def lateJoinAfter : List Event :=
  commandOn 1 .start 2 ++ commandOn 1 (.quiescent 0#32) 3 ++ [.grant 0, .grant 0] ++ commandOn 0 (.check 2#64 false) 2

def lateJoinStart : State := { State.reset with sched := lateJoinBefore ++ lateJoinAfter }

/-- When thread 1 has registered. -/
def lateJoinMiddle : State :=
  (runTested (fun u v => decide (StepDuty none u v)) lateJoinBefore.length lateJoinStart).getD lateJoinStart

def lateJoinEnd : State :=
  (runTested (fun u v => decide (StepDuty (some 1) u v)) lateJoinAfter.length lateJoinMiddle).getD lateJoinMiddle

theorem lateJoin_before :
    (runTested (fun u v => decide (StepDuty none u v)) lateJoinBefore.length lateJoinStart).isSome = true := by
  decide

theorem lateJoin_after :
    (runTested (fun u v => decide (StepDuty (some 1) u v)) lateJoinAfter.length lateJoinMiddle).isSome = true := by
  decide

theorem lateJoinMiddle_eq : lateJoinMiddle.regd 1 = true ∧ lateJoinMiddle.token = 1#64 := by decide

/-- Thread 1 has reported token 1 only, `ACKED_TOKEN` and the answer to `CHECK 2` say 2. -/
theorem lateJoinEnd_eq :
    lateJoinEnd.sched = [] ∧ lateJoinEnd.token = 2#64 ∧ lateJoinEnd.acked = 2#64 ∧ lateJoinEnd.cntOf 1 = 1#64 ∧
      (lateJoinEnd.ports[0]?).map (fun q => (q.phase, decodeWord q.lat.cmd, q.rspch.getLast?)) =
        some (.idle, .ok (.check 2#64 false), some { word := responseWord .ok 0#32 1#64, payload := [] }) := by
  decide

theorem lateJoin_events {e : Event} (he : e ∈ lateJoinBefore ++ lateJoinAfter) :
    (∃ p, e = .grant p) ∨
      ∃ p m c, e = .send p m ∧ decodeMessage State.reset.cfg m = .ok c ∧ unitOf c = .qsbr := by
  simp only [lateJoinBefore, lateJoinAfter, List.mem_append, List.mem_cons, List.not_mem_nil, or_false] at he
  rcases he with (((he | he) | he) | he) | ((he | he) | rfl | rfl) | he
  case inr.inl.inr.inl | inr.inl.inr.inr => exact .inl ⟨0, rfl⟩
  all_goals exact commandOn_events State.reset.cfg rfl he

/-- A step that passes the test keeps the duty of rule R293. -/
theorem StepDuty.duty {i : Option Nat} {s t : State} (h : StepDuty i s t) :
    CountersKept s t ∧ s.OneOwner ∧ t.OneOwner ∧ t.fault = 0#64 := by
  obtain ⟨hcnt, hs, ht, hfault, -⟩ := h
  exact ⟨countersKept_of_below hcnt, oneOwner_of_pairwise hs, oneOwner_of_pairwise ht, hfault⟩

theorem StepDuty.registered {i : Nat} {s t : State} (h : StepDuty (some i) s t) : t.regd i = true := by
  obtain ⟨-, -, -, -, hreg⟩ := h
  exact hreg i rfl

/-- Settles O60: the run above. -/
theorem ackedCanRunAhead : Obligations.AckedCanRunAhead := by
  obtain ⟨hreg, hmiddle⟩ := lateJoinMiddle_eq
  obtain ⟨hsched, htoken, hacked, hcnt, hport⟩ := lateJoinEnd_eq
  obtain ⟨q, hq, hanswer⟩ := Option.map_eq_some_iff.mp hport
  simp only [Prod.mk.injEq] at hanswer
  obtain ⟨hidle, hcmd, hrsp⟩ := hanswer
  obtain ⟨hduty, hrun⟩ := eachStep_of_tested (fun u v hok => StepDuty.duty (of_decide_eq_true hok)) lateJoin_before
  obtain ⟨hduty', hrun'⟩ := eachStep_of_tested
    (fun u v hok => And.intro (StepDuty.duty (of_decide_eq_true hok)) (StepDuty.registered (of_decide_eq_true hok)))
    lateJoin_after
  refine ⟨lateJoinBefore, lateJoinAfter, lateJoinMiddle, lateJoinEnd, 0, 1, q, 2#64, false, hduty, hrun, hreg, ?_, hduty',
    hrun', hsched, fun e => lateJoin_events, ?_, ?_, ?_, ?_, hq, hidle, hcmd, hrsp⟩
  · rw [hmiddle]; decide
  · rw [hcnt, hacked]; decide
  · rw [hacked, htoken]; decide
  · rw [hcnt]; decide
  · rw [htoken]; decide

end Sys2Proof.Machine
end

section
/-! PROOFS. The layout of a defer-queue entry (spec/43 rule R221): a byte of a little-endian word by its index, and the two
parts of an entry read back. -/

namespace Sys2Proof

/-- Byte `k` of a little-endian word. -/
theorem getElem?_leBytes {n k : Nat} (h : k < n) (v : Nat) : (leBytes n v)[k]? = some (BitVec.ofNat 8 (v / 256 ^ k)) := by
  induction n generalizing k v with
  | zero => omega
  | succ n ih =>
    cases k with
    | zero => simp [leBytes]
    | succ k =>
      have hk : k < n := by omega
      rw [leBytes, List.getElem?_cons_succ, ih hk, Nat.div_div_eq_div_mul, Nat.pow_succ']

/-- The byte that starts at bit `8 * k`, of any word. -/
theorem extractLsb'_byte {w : Nat} (x : BitVec w) (k : Nat) :
    x.extractLsb' (8 * k) 8 = BitVec.ofNat 8 (x.toNat / 256 ^ k) := by
  have hpow : 256 ^ k = 2 ^ (8 * k) := (Nat.pow_mul 2 8 k).symm
  rw [BitVec.extractLsb', Nat.shiftRight_eq_div_pow, hpow]

end Sys2Proof

namespace Sys2Proof.Machine

/-- The first 8 bytes of an entry are its token's. -/
theorem entryBytes_take (tok : U64) (elem : Element) : (entryBytes tok elem).take 8 = leBytes 8 tok.toNat :=
  List.take_left' (leBytes_length _ _)

theorem entryToken_entryBytes (tok : U64) (elem : Element) : entryToken (entryBytes tok elem) = tok := by
  have hlt : tok.toNat < 256 ^ 8 := tok.isLt
  rw [entryToken, entryBytes_take, leValue_leBytes, Nat.mod_eq_of_lt hlt, BitVec.ofNat_toNat, BitVec.setWidth_eq]

theorem entryElem_entryBytes (tok : U64) (elem : Element) : entryElem (entryBytes tok elem) = elem :=
  List.drop_left' (leBytes_length _ _)

/-- Settles O5: the token's bytes stand before the element's, and each part is read at its place. -/
theorem entryLayout : Obligations.EntryLayout := by
  intro tok elem
  have hlen : (leBytes 8 tok.toNat).length = 8 := leBytes_length _ _
  refine ⟨?_, fun k hk => ?_, fun k => ?_, entryToken_entryBytes tok elem, entryElem_entryBytes tok elem⟩
  · rw [entryBytes, List.length_append, hlen]
  · rw [entryBytes, List.getElem?_append_left (hlen.symm ▸ hk), getElem?_leBytes hk, extractLsb'_byte]
  · rw [entryBytes, List.getElem?_append_right (by omega), hlen, Nat.add_sub_cancel_left]

end Sys2Proof.Machine
end

section
/-! PROOFS. The first and the last line of the defer-queue commands (spec/43 rules R222, R223, R225, R226): the liveness test,
the call of the reclaim pass, and the end of a delete. -/

namespace Sys2Proof.Machine

section
variable {i : Instr} {s : State} {l : Label}

/-- A step that begins with the liveness test, on a killed queue. -/
theorem dead_refuses {k : State → Flow} (hat : s.atLine l []) (hstep : exec i s = (ifAlive s k).outcome)
    (hdead : s.dqAlive = false) :
    ∃ t, exec i s = .next t ∧ OnlyOwnPort s t ∧ SameShared s t ∧ t.lat = s.lat ∧ Answered s t .eNodq 0#32 0#64 [] := by
  rw [hstep, ifAlive, if_neg (Bool.eq_false_iff.mp hdead)]
  exact (Updated.refl hat.1).answer .eNodq

/-- A step that begins with the liveness test and then calls the reclaim pass, while the queue is alive. -/
theorem alive_calls_reclaim {lim : Limit} {k : State → Flow} (hk : afterReclaimOf i = some k) (hat : s.atLine l [])
    (hstep : exec i s = (ifAlive s fun u => (reclaimCall lim u).within .reclaimseq k).outcome)
    (halive : s.dqAlive = true) :
    ∃ t, exec i s = .next t ∧ OnlyOwnPort s t ∧ SameShared s t ∧
      AtReclaimLoop i s t { s.lat with lim := lim, freed := 0#32 } := by
  rw [hstep, ifAlive, if_pos halive]
  exact reclaimLoop_outcome hk ((Updated.refl hat.1).updLat fun x => { x with lim := lim, freed := 0#32 })

/-- A pass without limit never ends at its head. -/
theorem atReclaimLoop_inf {t : State} {x : Latches} (hlim : x.lim = .inf) :
    AtReclaimLoop i s t x ↔
      t.lat = { x with n := 1#32, beh := .exact } ∧ Continues s t .h1 [.reclaimseq, .reserve] := by
  rw [AtReclaimLoop, hlim, if_neg nofun]

end

/-- `DQKILL` clears bit 3 of `STATUS` alone. -/
theorem killDq_status_getLsbD (s : State) (b : Nat) :
    s.killDq.status.getLsbD b = (s.status.getLsbD b && decide (b ≠ 3)) := by
  have hbit : (8#64) = BitVec.twoPow 64 3 := rfl
  rw [State.killDq_status, BitVec.getLsbD_and, BitVec.getLsbD_not, hbit, BitVec.getLsbD_twoPow]
  by_cases hb : b < 64
  · simp [hb, eq_comm]
  · simp [BitVec.getLsbD_of_ge s.status b (Nat.le_of_not_lt hb)]

/-! ### The statements -/

/-- Settles O34: both commands call the pass after the liveness test, and `loop` comes in the same step. -/
theorem reclaimBegins : Obligations.ReclaimBegins := by
  intro s halive
  refine ⟨fun n hat => alive_calls_reclaim rfl hat (execDqReclaim_r1 hat) halive, fun hat => ?_⟩
  obtain ⟨t, hnext, hown, hshared, hloop⟩ := alive_calls_reclaim (i := .dqDelete) rfl hat (execDqDelete_z0 hat) halive
  obtain ⟨hlat, hcont⟩ := (atReclaimLoop_inf rfl).mp hloop
  exact ⟨t, hnext, hown, hshared, hlat, hcont⟩

/-- Settles O32: each of the three first lines begins with the liveness test. -/
theorem deadQueueAnswers : Obligations.DeadQueueAnswers := by
  intro i s hdead hat
  obtain ⟨rfl, hat⟩ | ⟨n, rfl, hat⟩ | ⟨rfl, hat⟩ := hat
  · exact dead_refuses hat (execDqEnq_d1 hat) hdead
  · exact dead_refuses hat (execDqReclaim_r1 hat) hdead
  · exact dead_refuses hat (execDqDelete_z0 hat) hdead

/-- Settles O38: `Z1` is `DQKILL` followed by the answer. -/
theorem deleteEnds : Obligations.DeleteEnds := by
  intro s hat
  have hkill : Updated s s.killDq s.lat := (Updated.refl hat.1).shared rfl rfl rfl rfl rfl
  obtain ⟨t, hnext, hown, ⟨hrings, htokens, hthreads, ⟨hstatus, hfault⟩, hfree⟩, hlat, hans⟩ :=
    hkill.respond .ok s.lat.freed 0#64 []
  have hexec : exec .dqDelete s = .next t := (execDqDelete_z1 hat).trans hnext
  have hbits : ∀ b, t.status.getLsbD b = (s.status.getLsbD b && decide (b ≠ 3)) := fun b => by
    rw [hstatus, killDq_status_getLsbD]
  refine ⟨t, hexec, hown, hrings, htokens, hthreads, hfault, hfree, hlat, ?_, fun b hb => ?_, hans⟩
  · rw [State.dqAlive, hbits, decide_eq_false (not_not_intro rfl), Bool.and_false]
  · rw [hbits, decide_eq_true hb, Bool.and_true]

end Sys2Proof.Machine
end

section
/-! PROOFS. The read of a register (spec/44 rule R240). -/

namespace Sys2Proof.Machine

/-- Settles O39: `C1` is the answer alone, with the register's value, so nothing but the port's phase and response channel
changes. -/
theorem csrReads : Obligations.CsrReads := by
  intro reg idx v s hat hv
  have hline : exec (.csrRd reg idx) s = .next (s.respond .ok 0#32 v) := execCsrRd_c1 hat hv
  rw [hline]
  exact (Updated.refl hat.1).respond .ok 0#32 v []

end Sys2Proof.Machine
end

section
/-! PROOFS. Precision of errors (spec/60 rules R250, R254, R255): every answer a step can give is `OK`, or a refusal that has
written nothing shared, or a raised fault, or the `E_PENDING` of a delete that has given its entry back at `H5`. -/

namespace Sys2Proof.Machine

/-! ### The answers of a step -/

/-- Every way in which a step of the command `i` from `s` can answer, by the state that it leaves. -/
inductive Verdict (i : Instr) (s : State) : State → Prop
  | ok (v : State) (n : U32) (val : U64) (pl : List Element) : Verdict i s (v.respondWith .ok n val pl)
  /-- An error found by a test, before anything is written (spec/60 rule R255). -/
  | refused (u : State) (h : SameShared s u) : Verdict i s u
  /-- A fault (spec/60 rule R254). -/
  | raised (f : FaultBit) (v : State) (h : SameShared s v) : Verdict i s ((v.setFault f).respond .eFault 0#32 0#64)
  /-- A delete whose pass is blocked (spec/43 rule R226). -/
  | pending (v : State) (n : U32) (hi : i = .dqDelete) (hat : ∃ st, s.phase = .busy .h5 st) :
    Verdict i s (v.respond .ePending n 0#64)

/-- If the line ends its command, `P` holds of the state it leaves. -/
abbrev Flow.EndsIn (P : State → Prop) (x : Flow) : Prop :=
  x.Sat (fun _ _ _ => True) (fun _ => True) P fun _ => True

theorem Flow.EndsIn.imp {P Q : State → Prop} {x : Flow} (h : x.EndsIn P) (hPQ : ∀ u, P u → Q u) : x.EndsIn Q :=
  Flow.Sat.imp h (fun _ _ _ => id) (fun _ => id) hPQ fun _ => id

theorem Flow.EndsIn.within {P : State → Prop} {x : Flow} {q : Seq} {k : State → Flow} (h : x.EndsIn P)
    (hk : ∀ u, (k u).EndsIn P) : (x.within q k).EndsIn P :=
  Flow.Sat.within h (fun _ _ _ => id) (fun u _ => hk u) (fun _ => id) fun _ => id

theorem Flow.EndsIn.ite {P : State → Prop} {p : Prop} [Decidable p] {x y : Flow} (hx : x.EndsIn P) (hy : y.EndsIn P) :
    (if p then x else y).EndsIn P := by
  split
  · exact hx
  · exact hy

theorem SameShared.refl (s : State) : SameShared s s := ⟨⟨rfl, rfl⟩, ⟨rfl, rfl⟩, ⟨rfl, rfl, rfl, rfl⟩, ⟨rfl, rfl⟩, rfl⟩

section
variable {i : Instr} {s : State}

theorem verdict_respond_ok (v : State) (n : U32) (val : U64) :
    (Flow.ended (v.respond .ok n val)).EndsIn (Verdict i s) := .ok v n val []

theorem verdict_refuses {u : State} (st : Status) (h : SameShared s u) : (answer st u).EndsIn (Verdict i s) :=
  .refused _ h

theorem verdict_raiseFault (f : FaultBit) {v : State} (h : SameShared s v) : (raiseFault f v).EndsIn (Verdict i s) :=
  .raised f v h

/-! ### The lines of the sub-sequences -/

/-- `RESERVE` ends its command at `S1` alone (the fourth line of `reserveLine`). -/
theorem reserveLine_verdict (r : RingId) (sd : Side) (l : Label) : (reserveLine r sd l s).EndsIn (Verdict i s) := by
  unfold reserveLine
  split
  case h_4 => exact Flow.EndsIn.ite (verdict_raiseFault .single (.refl s)) trivial
  case h_1 | h_6 | h_10 | h_14 => trivial
  all_goals exact Flow.EndsIn.ite trivial trivial

theorem publishLine_never_ends (r : RingId) (sd : Side) (l : Label) : (publishLine r sd l s).EndsIn fun _ => False := by
  unfold publishLine
  split
  case h_1 | h_7 => exact Flow.EndsIn.ite trivial trivial
  all_goals trivial

theorem copyLine_never_ends (g : s.granted) (r : RingId) (sd : Side) : (copyLine r sd s).EndsIn fun _ => False :=
  (copyLine_goes (l' := .m4) g (by decide)).imp (fun _ _ _ _ => trivial) (fun _ _ => trivial) (fun _ => id) fun _ => id

theorem checkLine_never_ends (g : s.granted) (l : Label) : (checkLine l s).EndsIn fun _ => False :=
  (checkLine_keepsHold g l).imp (fun _ _ _ _ => trivial) (fun _ _ => trivial) (fun _ => id) fun _ => id

theorem countLine_never_ends (r : RingId) (l : Label) : (countLine r l s).EndsIn fun _ => False :=
  (countLine_sameRings r l s).imp (fun _ _ _ _ => trivial) (fun _ _ => trivial) (fun _ => id) fun _ => id

theorem ringopLine_verdict (g : s.granted) (r : RingId) (sd : Side) (l : Label) (st : List Seq) :
    (ringopLine r sd l st s).EndsIn (Verdict i s) := by
  unfold ringopLine
  split
  · exact (reserveLine_verdict r sd l).within fun u => Flow.EndsIn.ite trivial trivial
  · exact ((copyLine_never_ends g r sd).imp fun _ => False.elim).within fun _ => trivial
  · exact ((publishLine_never_ends r sd l).imp fun _ => False.elim).within fun _ => trivial
  · trivial

/-! ### The reclaim pass (spec/43 rule R222) -/

/-- If the line ends its command, it has a verdict; if it ends its reclaim pass, the pass is blocked only where `B` holds. -/
abbrev Flow.Passes (i : Instr) (s : State) (B : Prop) (x : Flow) : Prop :=
  x.Sat (fun _ _ _ => True) (fun u => u.granted ∧ (u.lat.why = .blocked → B)) (Verdict i s) fun _ => True

theorem reclaimLoop_passes {B : Prop} {u : State} (g : u.granted) : (reclaimLoop u).Passes i s B := by
  unfold reclaimLoop
  split
  · refine ⟨updLat_granted g _, fun hwhy => ?_⟩
    rw [State.updLat_lat u _ g] at hwhy
    cases hwhy
  · trivial

theorem reclaimReserved_passes {B : Prop} {u : State} (g : u.granted) : (reclaimReserved u).Passes i s B := by
  unfold reclaimReserved
  split
  · refine ⟨updLat_granted g _, fun hwhy => ?_⟩
    rw [State.updLat_lat u _ g] at hwhy
    cases hwhy
  · trivial

/-- A pass returns blocked at `H5` alone. -/
theorem reclaimLine_passes (g : s.granted) (l : Label) (st : List Seq) :
    (reclaimLine l st s).Passes i s (l = .h5) := by
  unfold reclaimLine
  split
  · exact Flow.Sat.within ((reserveLine_verdict .defer .cons l).and (reserveLine_keepsOthers .defer .cons l s))
      (fun _ _ _ _ => trivial) (fun u hu => reclaimReserved_passes (hu.2.granted g)) (fun _ hu => hu.1) fun _ _ => trivial
  · unfold reclaimRead
    cases s.memRead .defer (addrOf s.cfg .defer s.lat.oh) (esize s.cfg .defer) with
    | error f => trivial
    | ok e => trivial
  · exact reclaimLoop_passes (updLat_granted (by simpa [State.granted] using g) _)
  · refine Flow.Sat.within (checkLine_never_ends g l) (fun _ _ _ => id) (fun u _ => ?_) (fun _ => False.elim) fun _ => id
    unfold reclaimChecked
    split <;> trivial
  · unfold cancelLine
    split
    · exact ⟨updLat_granted (by simpa [State.granted] using g) _, fun _ => rfl⟩
    · trivial
  · trivial

/-! ### What follows a sub-sequence -/

theorem dqEnqDone_verdict (u : State) : (dqEnqDone u).EndsIn (Verdict i s) := verdict_respond_ok u _ _

theorem afterRingopOf_verdict (u : State) : (afterRingopOf i u).EndsIn (Verdict i s) := by
  unfold afterRingopOf
  rcases ringopUse i with _ | ⟨_ | _, _ | _⟩
  · trivial
  · exact verdict_respond_ok u _ _
  · exact .ok u _ _ _
  · trivial
  · trivial

theorem afterCheckOf_verdict {k : State → Flow} (hk : afterCheckOf i = some k) (u : State) :
    (k u).EndsIn (Verdict i s) := by
  cases i <;> cases hk <;> exact verdict_respond_ok u _ _

/-- After a pass: `OK`, or the `E_PENDING` of a delete whose pass is blocked. -/
theorem afterReclaimOf_verdict {k : State → Flow} (hk : afterReclaimOf i = some k) {u : State}
    (hblocked : u.lat.why = .blocked → ∃ st, s.phase = .busy .h5 st) : (k u).EndsIn (Verdict i s) := by
  cases i <;> cases hk
  · exact dqEnqDone_verdict u
  · exact verdict_respond_ok u _ _
  · unfold dqDeletePassed
    split
    · rename_i hwhy
      exact .pending u _ rfl (hblocked hwhy)
    · trivial

theorem Flow.Passes.verdict {B : Prop} {x : Flow} {k : State → Flow} (h : x.Passes i s B)
    (hk : afterReclaimOf i = some k) (hB : B → ∃ st, s.phase = .busy .h5 st) :
    (x.within .reclaimseq k).EndsIn (Verdict i s) :=
  Flow.Sat.within h (fun _ _ _ => id) (fun _ hu => afterReclaimOf_verdict hk fun hwhy => hB (hu.2 hwhy)) (fun _ => id)
    fun _ => id

/-- A pass that begins in this step does not return blocked in it. -/
theorem reclaimCall_verdict {k : State → Flow} (hk : afterReclaimOf i = some k) {u : State} (g : u.granted)
    (lim : Limit) : ((reclaimCall lim u).within .reclaimseq k).EndsIn (Verdict i s) :=
  (reclaimLoop_passes (B := False) (updLat_granted g _)).verdict hk False.elim

theorem afterCountOf_verdict {u : State} (g : u.granted) : (afterCountOf i u).EndsIn (Verdict i s) := by
  cases i with
  | ringCount => exact verdict_respond_ok u _ _
  | ringFree => exact verdict_respond_ok u _ _
  | dqEnq => exact Flow.EndsIn.ite (reclaimCall_verdict (i := .dqEnq) rfl g _) (dqEnqDone_verdict u)
  | _ => trivial

/-! ### A command's own code -/

theorem onlyAt_verdict {first l : Label} {x : Flow} (h : x.EndsIn (Verdict i s)) :
    (onlyAt first l x).EndsIn (Verdict i s) := h.ite trivial

theorem ifAlive_verdict {k : State → Flow} (h : (k s).EndsIn (Verdict i s)) : (ifAlive s k).EndsIn (Verdict i s) :=
  h.ite (verdict_refuses .eNodq (.refl s))

/-- `TKINC` at the last token raises a fault before anything is written. -/
theorem tkinc_verdict {u : State} {k : State → Flow} (hu : SameShared s u) (hk : ∀ v, (k v).EndsIn (Verdict i s)) :
    (tkinc u k).EndsIn (Verdict i s) := (verdict_raiseFault .tokwrap hu).ite (hk _)

/-- The two tests of a report come before its store. -/
theorem quiescentProbe_verdict (j : Nat) : (quiescentProbe j s).EndsIn (Verdict i s) := by
  simp only [quiescentProbe]
  split
  · exact verdict_refuses _ (.refl s)
  · split
    · exact verdict_refuses _ (.refl s)
    · trivial

theorem syncBegin_verdict (tid : U32) : (syncBegin tid s).EndsIn (Verdict i s) := by
  simp only [syncBegin]
  split
  · exact verdict_refuses _ (.refl s)
  · exact tkinc_verdict (.refl s) fun v => by split <;> trivial

theorem ownLine_verdict (g : s.granted) (l : Label) : (ownLine i l s).EndsIn (Verdict i s) := by
  have hsame := SameShared.refl s
  cases i with
  | thrReg tid | thrUnreg tid =>
    exact onlyAt_verdict ((verdict_refuses _ hsame).ite ((verdict_refuses _ hsame).ite (verdict_respond_ok _ _ _)))
  | quiescent tid => exact (quiescentProbe_verdict _).ite (onlyAt_verdict (verdict_respond_ok _ _ _))
  | start => exact onlyAt_verdict (tkinc_verdict hsame fun v => verdict_respond_ok v _ _)
  | sync tid => exact (syncBegin_verdict tid).ite (Flow.EndsIn.ite trivial (onlyAt_verdict trivial))
  | rdLock tid | rdUnlock tid =>
    exact onlyAt_verdict ((verdict_refuses _ hsame).ite (verdict_respond_ok _ _ _))
  | dqEnq => exact onlyAt_verdict (ifAlive_verdict (tkinc_verdict hsame fun _ => trivial))
  | dqReclaim n => exact onlyAt_verdict (ifAlive_verdict (reclaimCall_verdict (i := .dqReclaim n) rfl g _))
  | dqDelete =>
    exact (ifAlive_verdict (reclaimCall_verdict (i := .dqDelete) rfl g _)).ite (onlyAt_verdict (verdict_respond_ok _ _ _))
  | csrRd reg idx =>
    refine onlyAt_verdict ?_
    unfold csrLine
    split
    · exact verdict_respond_ok s _ _
    · trivial
  | _ => trivial

/-! ### Every step -/

/-- A labelled line of any command, if it ends its command. -/
theorem lineFlow_verdict {l : Label} {st : List Seq} (hat : s.atLine l st) :
    (lineFlow i l st s).EndsIn (Verdict i s) := by
  obtain ⟨g, hphase⟩ := hat
  unfold lineFlow
  split
  · exact ownLine_verdict g l
  · split
    · exact (ringopLine_verdict g _ _ l _).within afterRingopOf_verdict
    · trivial
  · split
    · rename_i r _
      exact Flow.Sat.within ((countLine_never_ends r l).and (countLine_keepsOthers r l s)) (fun _ _ _ _ => trivial)
        (fun u hu => afterCountOf_verdict (hu.2.granted g)) (fun _ hu => hu.1.elim) fun _ _ => trivial
    · trivial
  · split
    · rename_i hk
      exact ((checkLine_never_ends g l).imp fun _ => False.elim).within (afterCheckOf_verdict hk)
    · trivial
  · split
    · rename_i hk
      exact (reclaimLine_passes g l _).verdict hk fun hl => ⟨_, hl ▸ hphase⟩
    · trivial
  · trivial

end

/-- An acceptance step writes nothing shared. -/
theorem accept_sameShared {i : Instr} {s t : State} (hidle : s.phase = .idle) (h : exec i s = .next t) :
    SameShared s t := by
  have g := granted_of_exec h
  obtain ⟨m, rest, -, ha⟩ := exec_accepts hidle h
  have hstore := ha.sameStore
  rw [exec_idle g hidle] at h
  have hregs := ((accept_plain i s).stepFrom g h).regs
  exact ⟨hstore.rings, hregs.tokens, hregs.threads, hregs.flags, hstore.freech⟩

theorem granted_of_next {i : Instr} {s t : State} (h : exec i s = .next t) : t.granted := by
  obtain ⟨-, hcur, -, -, hlen, -⟩ := exec_onlyOwnPort h
  simpa [State.granted, hcur, hlen] using granted_of_exec h

/-- A step that leaves its port idle has a verdict. -/
theorem exec_verdict {i : Instr} {s t : State} (h : exec i s = .next t) (hidle : t.phase = .idle) : Verdict i s t := by
  have gt := granted_of_next h
  cases hp : s.phase with
  | idle => exact .refused t (accept_sameShared hp h)
  | busy l st =>
    have hat : s.atLine l st := ⟨granted_of_exec h, hp⟩
    have hends := lineFlow_verdict (i := i) hat
    rw [exec_busy hat] at h
    rcases Flow.outcome_next h with ⟨l', st', u, -, rfl⟩ | hended
    · have gu : u.granted := by simpa [State.granted] using gt
      rw [State.phase, State.setPhase_port u _ gu] at hidle
      cases hidle
    · rw [hended] at hends
      exact hends

/-! ### The statement -/

theorem Status.code_injective {a b : Status} (h : a.code = b.code) : a = b := by
  revert h
  cases a <;> cases b <;> decide

/-- A response names its status. -/
theorem status_eq_of_responseWord_eq {a b : Status} {n m : U32} {v w : U64} (h : responseWord a n v = responseWord b m w) :
    a = b := by
  have hcode : ∀ (st : Status) (n : U32) (v : U64), (responseWord st n v).setWidth 8 = st.code := by
    intro st n v
    ext j hj
    simp [responseWord]
    grind
  exact Status.code_injective (by rw [← hcode a n v, h, hcode b m w])

/-- The status of the newest response. -/
theorem status_of_answer {v : State} {a b : Status} {n m : U32} {x y : U64} {pl pl' : List Element} {rs : List Response}
    (g : v.granted) (h : (v.respondWith a n x pl).port.rspch = rs ++ [{ word := responseWord b m y, payload := pl' }]) :
    a = b := by
  rw [State.respondWith_port v _ _ _ _ g] at h
  obtain ⟨-, hlast⟩ := List.append_inj' h (by simp)
  simp only [List.cons.injEq, Response.mk.injEq] at hlast
  exact status_eq_of_responseWord_eq hlast.1.1

/-- A line at `H5` writes no register outside the rings, no storage and no message. -/
theorem h5_writes_side_only {i : Instr} {s t : State} {st : List Seq} (hat : s.phase = .busy .h5 st)
    (h : exec i s = .next t) : SameRegs s t ∧ t.freech = s.freech ∧ ∀ r, (t.ring r).mem = (s.ring r).mem := by
  refine ⟨?_, ?_⟩
  · cases exec_regEffect h with
    | same h => exact h.regs
    | token hl | fault _ hl | report _ hl | lock _ _ hl => simp [hat] at hl
    | acked _ _ hl | register _ _ hl | unregister _ _ hl | kill _ hl => simp [hat] at hl
  · cases exec_storeEffect h with
    | same h => exact ⟨h.freech, mem_of_sameRings h.rings⟩
    | ringop _ _ _ _ _ _ _ h hf | pass _ _ _ _ _ h hf => exact ⟨hf, h.1⟩
    | copy _ _ hl | free _ _ hl => simp [hat] at hl

/-- Settles O46: a step that answers has one of the four verdicts, and its newest response names the status. -/
theorem errorsArePrecise : Obligations.ErrorsArePrecise := by
  intro i s t st cnt val pl h hans hst
  have gt := granted_of_next h
  have hidle : t.phase = .idle := by
    rcases (exec_regEffect h).answers with hsilent | ⟨hidle, -⟩
    · simp [hsilent] at hans
    · exact hidle
  cases exec_verdict h hidle with
  | ok v n x pl' => exact absurd (status_of_answer (by simpa [State.granted] using gt) hans).symm hst
  | refused _ hs =>
    obtain ⟨hrings, htokens, hthreads, ⟨hstatus, hfault⟩, hfree⟩ := hs
    exact ⟨htokens, hthreads, hstatus, hfree, mem_of_sameRings hrings, .inl hfault, .inl hrings⟩
  | raised f v hs =>
    obtain ⟨hrings, htokens, hthreads, ⟨hstatus, -⟩, hfree⟩ := hs
    have hE : Status.eFault = st := status_of_answer (v := v.setFault f) (by simpa [State.granted] using gt) hans
    exact ⟨htokens, hthreads, hstatus, hfree, mem_of_sameRings hrings, .inr hE.symm, .inl hrings⟩
  | pending v n hi hat =>
    have hE : Status.ePending = st := status_of_answer (by simpa [State.granted] using gt) hans
    obtain ⟨x, hx⟩ := hat
    obtain ⟨⟨htokens, hthreads, hstatus, hfault⟩, hfree, hmem⟩ := h5_writes_side_only hx h
    exact ⟨htokens, hthreads, hstatus, hfree, hmem, .inl hfault, .inr ⟨hi, hE.symm, x, hx⟩⟩

end Sys2Proof.Machine
end
